-- ==== Sys2Proof/Word.lean ====
section
/-! DEFINITION. The number types of the engine (00_scope.md R10, R11): bytes, 32-bit words, zero extension. All quantities are unsigned. -/

namespace Sys2Proof

/-- A byte: 8 bits (R10). -/
abbrev Byte := BitVec 8

/-- A 32-bit unsigned number: host registers, geometry, addresses (R22, R25, R60). -/
abbrev Word := BitVec 32

/-- `zext_32` of a byte (R11). -/
def Byte.zext (b : Byte) : Word := b.zeroExtend 32

end Sys2Proof
end

