-- ==== Sys2Proof/Config.lean ====
section
/-! DEFINITION. What is fixed for one machine (00_scope.md R8, R9), the catalog's descriptors (40_catalog.md R130), and the free values of everything the spec leaves open. -/

namespace Sys2Proof

/-- One row of the flash device catalog (40_catalog.md R130). -/
structure Descriptor where
  manufacturerId : Byte
  memoryType : Byte
  capacity : Byte
  /-- Capacity in bytes. -/
  totalSize : Word
  /-- Informational; no rule reads it (R130, D27). `none`: the spec prints no value for the row. -/
  startUpTimeUs : Option Nat
  quadEnableBitMask : Byte
  singleStatusByte : Bool
  writeStatusRegisterSplit : Bool
  hasSectorProtection : Bool
  deriving DecidableEq, Repr, Inhabited

/-- The descriptor whose fields are all zero: what the pseudocode local `d` holds before it is bound.
DESIGN CHOICE (log 6), never read by an operation. -/
def Descriptor.blank : Descriptor where
  manufacturerId := 0
  memoryType := 0
  capacity := 0
  totalSize := 0
  startUpTimeUs := none
  quadEnableBitMask := 0
  singleStatusByte := false
  writeStatusRegisterSplit := false
  hasSectorProtection := false

/-- Reset value of the three geometry registers (`GEOM_RESET`, R8, R45). -/
structure Geometry where
  totalSize : Word
  pageSize : Word
  pageCount : Word
  deriving DecidableEq, Repr

/-- `ERASE_SECTOR_RESULT` (R8, 45_erase.md R201). -/
inductive EraseSectorResult where
  | alwaysOk
  | propagate
  deriving DecidableEq, Repr

/-- `ERASE_BLOCK_MODE` (R8, 45_erase.md R202). -/
inductive EraseBlockMode where
  | notImplemented
  | sourceBracket
  deriving DecidableEq, Repr

/-- `MFR_DEV_DEVICE_INDEX` (R8, 42_identification.md R171): which identification byte is "device". -/
inductive DeviceIndex where
  | one
  | two
  deriving DecidableEq, Repr

/-- The whole parameter table of 00_scope.md R8. A model takes it as its configuration, so every
statement ranges over all of it. -/
structure Config where
  cmdRdid : Byte
  cmdRdsr1 : Byte
  cmdRdsr2 : Byte
  cmdWrsr1 : Byte
  cmdWrsr2 : Byte
  cmdWren : Byte
  cmdWrdi : Byte
  cmdRsten : Byte
  cmdRst : Byte
  cmdCe : Byte
  wipMask : Byte
  susMask : Byte
  sectorSize : Word
  catalog : List Descriptor
  geomReset : Geometry
  eraseSectorResult : EraseSectorResult
  eraseBlockMode : EraseBlockMode
  errSentinel8 : Byte
  errSentinel16 : BitVec 16
  errSentinel32 : Word
  mfrDevDeviceIndex : DeviceIndex
  /-- Test-only bound on the reads of one busy-wait (R184); `none` is the normative value. -/
  pollLimit : Option Nat
  deriving DecidableEq, Repr

/-- The one row the source prints (40_catalog.md R133), flags as printed. -/
def Descriptor.documentedRow : Descriptor where
  manufacturerId := 0xC8
  memoryType := 0x40
  capacity := 0x15
  totalSize := 0x00200000
  startUpTimeUs := none
  quadEnableBitMask := 0x02
  singleStatusByte := true
  writeStatusRegisterSplit := false
  hasSectorProtection := false

/-- Every parameter at its default (R8; the defaults are the spec's, from general knowledge: PRESUMED, log 20). -/
def Config.standard : Config where
  cmdRdid := 0x9F
  cmdRdsr1 := 0x05
  cmdRdsr2 := 0x35
  cmdWrsr1 := 0x01
  cmdWrsr2 := 0x31
  cmdWren := 0x06
  cmdWrdi := 0x04
  cmdRsten := 0x66
  cmdRst := 0x99
  cmdCe := 0xC7
  wipMask := 0x01
  susMask := 0x80
  sectorSize := 4096
  catalog := [Descriptor.documentedRow]
  geomReset := ⟨0, 0, 0⟩
  eraseSectorResult := .alwaysOk
  eraseBlockMode := .notImplemented
  errSentinel8 := 0xFF
  errSentinel16 := 0xFFFF
  errSentinel32 := 0xFFFFFFFF
  mfrDevDeviceIndex := .one
  pollLimit := none

/-- The page size, fixed by the source (R9). -/
def Config.pageSizeBytes : Word := 256

/-- The post-reset delay in microseconds, fixed by the source (R9). -/
def Config.resetDelayUs : Nat := 30

/-- A free boolean (20_memory.md R63): the n-th value drawn of a transport that nothing describes. -/
opaque Config.freeBool : Nat → Bool

/-- A free byte (20_memory.md R63, R69). -/
opaque Config.freeByte : Nat → Byte

/-- A free byte sequence, of free length: `RBUF` where 10_state.md R23 leaves it unspecified (U7). -/
opaque Config.freeBytes : Nat → List Byte

end Sys2Proof
end

