-- ==== Sys2Proof/Syntax.lean ====
section
/-! DEFINITION. The instructions: the seventeen host operations (30_encoding.md R101) and the ten bus commands (R110), one constructor per row of opcode_table.json. -/

namespace Sys2Proof

/-- The two spaces of opcode_table.json: the host's requests and the commands on the bus. -/
inductive Space where
  | host
  | bus
  deriving DecidableEq, Repr

/-- The names of the ten bus commands (R110). Their bytes are parameters. -/
inductive BusCommand where
  | rdid
  | rdsr1
  | rdsr2
  | wrsr1
  | wrsr2
  | wren
  | wrdi
  | rsten
  | rst
  | ce
  deriving DecidableEq, Repr

/-- One instruction. A host operation has no operand of its own: it reads the registers `a0`, `a1` and
`WBUF` as they stand (R100). The two bus writes carry their payload (R110, R111). -/
inductive Instr where
  /-- `INITIALIZE`, 41_initialize.md R140. -/
  | opInitialize
  /-- `READ_BUFFER`, 44_bulk_transfer.md R190. -/
  | opReadBuffer
  /-- `WRITE_BUFFER`, 44_bulk_transfer.md R191. -/
  | opWriteBuffer
  /-- `READ8`, 44_bulk_transfer.md R192. -/
  | opRead8
  /-- `READ16`, 44_bulk_transfer.md R193. -/
  | opRead16
  /-- `READ32`, 44_bulk_transfer.md R194. -/
  | opRead32
  /-- `CHIP_ERASE`, 45_erase.md R200. -/
  | opChipErase
  /-- `ERASE_SECTOR`, 45_erase.md R201. -/
  | opEraseSector
  /-- `ERASE_BLOCK`, 45_erase.md R202. -/
  | opEraseBlock
  /-- `READ_MFR_DEV_ID`, 42_identification.md R171. -/
  | opReadMfrDevId
  /-- `READ_JEDEC_ID`, 42_identification.md R172. -/
  | opReadJedecId
  /-- `GET_TOTAL_SIZE`, 42_identification.md R175. -/
  | opGetTotalSize
  /-- `GET_PAGE_SIZE`, 42_identification.md R176. -/
  | opGetPageSize
  /-- `GET_PAGE_COUNT`, 42_identification.md R177. -/
  | opGetPageCount
  /-- `READ_STATUS1`, 43_status_access.md R180. -/
  | opReadStatus1
  /-- `READ_STATUS2`, 43_status_access.md R181. -/
  | opReadStatus2
  /-- `WRITE_ENABLE`, 43_status_access.md R182. -/
  | opWriteEnable
  /-- Bus command "read identification" (R110): three response bytes. -/
  | cmdRdid
  /-- Bus command read status register 1 (R110): one response byte. -/
  | cmdRdsr1
  /-- Bus command read status register 2 (R110): one response byte. -/
  | cmdRdsr2
  /-- Bus command "write status register 1" (R110): payload of one or two bytes. -/
  | cmdWrsr1 (payload : List Byte)
  /-- Bus command "write status register 2" (R110): payload of one byte. -/
  | cmdWrsr2 (payload : List Byte)
  /-- Bus command write-enable (R110). -/
  | cmdWren
  /-- Bus command "write-disable" (R110). -/
  | cmdWrdi
  /-- Bus command "enable reset" (R110). -/
  | cmdRsten
  /-- Bus command "reset" (R110). -/
  | cmdRst
  /-- Bus command "erase entire chip" (R110). -/
  | cmdCe
  deriving DecidableEq, Repr

/-- Which space an instruction belongs to. -/
def Instr.space : Instr → Space
  | .opInitialize | .opReadBuffer | .opWriteBuffer | .opRead8 | .opRead16 | .opRead32 => .host
  | .opChipErase | .opEraseSector | .opEraseBlock | .opReadMfrDevId | .opReadJedecId => .host
  | .opGetTotalSize | .opGetPageSize | .opGetPageCount => .host
  | .opReadStatus1 | .opReadStatus2 | .opWriteEnable => .host
  | .cmdRdid | .cmdRdsr1 | .cmdRdsr2 | .cmdWrsr1 _ | .cmdWrsr2 _ => .bus
  | .cmdWren | .cmdWrdi | .cmdRsten | .cmdRst | .cmdCe => .bus

/-- The request formats of R100: which operands an operation reads. -/
inductive RequestFormat where
  | req0
  | req1
  | req2
  | req2w
  deriving DecidableEq, Repr

/-- The format of each host operation (R101); a bus command is no request. -/
def Instr.requestFormat : Instr → Option RequestFormat
  | .opInitialize | .opChipErase | .opReadMfrDevId | .opReadJedecId => some .req0
  | .opGetTotalSize | .opGetPageSize | .opGetPageCount => some .req0
  | .opReadStatus1 | .opReadStatus2 | .opWriteEnable => some .req0
  | .opRead8 | .opRead16 | .opRead32 | .opEraseSector | .opEraseBlock => some .req1
  | .opReadBuffer => some .req2
  | .opWriteBuffer => some .req2w
  | .cmdRdid | .cmdRdsr1 | .cmdRdsr2 | .cmdWrsr1 _ | .cmdWrsr2 _ => none
  | .cmdWren | .cmdWrdi | .cmdRsten | .cmdRst | .cmdCe => none

/-- The tuple the host writes to make a request (R100): the operation code and the operand registers. -/
structure Request where
  op : Byte
  a0 : Word
  a1 : Word
  wbuf : List Byte
  deriving DecidableEq, Repr

end Sys2Proof
end

