-- ==== Sys2Proof/WellFormed.lean ====
section
/-! DEFINITION. Which instructions, requests, configurations and catalogs are well formed (R8, R23, R110, R121, R132). -/

namespace Sys2Proof

/-- R110, R121: `WRSR1` carries one or two payload bytes, `WRSR2` one; nothing else has an operand. -/
def Instr.wf : Instr → Bool
  | .cmdWrsr1 payload => payload.length == 1 || payload.length == 2
  | .cmdWrsr2 payload => payload.length == 1
  | .opInitialize | .opReadBuffer | .opWriteBuffer | .opRead8 | .opRead16 | .opRead32 => true
  | .opChipErase | .opEraseSector | .opEraseBlock | .opReadMfrDevId | .opReadJedecId => true
  | .opGetTotalSize | .opGetPageSize | .opGetPageCount => true
  | .opReadStatus1 | .opReadStatus2 | .opWriteEnable => true
  | .cmdRdid | .cmdRdsr1 | .cmdRdsr2 | .cmdWren | .cmdWrdi | .cmdRsten | .cmdRst | .cmdCe => true

/-- R23: with a `WRITE_BUFFER` request (code 0x03) the host supplies exactly `a1` bytes. -/
def Request.wf (r : Request) : Bool :=
  r.op != 0x03 || r.wbuf.length == r.a1.toNat

/-- The ten command bytes in the order of R110. -/
def Config.commandBytes (c : Config) : List Byte :=
  [c.cmdRdid, c.cmdRdsr1, c.cmdRdsr2, c.cmdWrsr1, c.cmdWrsr2, c.cmdWren, c.cmdWrdi, c.cmdRsten, c.cmdRst, c.cmdCe]

/-- R8: the ten command bytes are pairwise distinct. -/
abbrev Config.DistinctCommands (c : Config) : Prop := c.commandBytes.Nodup

/-- The constraints R8 puts on the parameters, the catalog's apart. -/
abbrev Config.Wf (c : Config) : Prop :=
  c.DistinctCommands ∧ c.wipMask ≠ 0 ∧ c.susMask ≠ 0 ∧ c.sectorSize ≠ 0

/-- The identification bytes that key a descriptor (R130). -/
def Descriptor.triplet (d : Descriptor) : Byte × Byte × Byte :=
  (d.manufacturerId, d.memoryType, d.capacity)

/-- R132(b), (c): the size is a multiple of 256, and a mask that is not zero has exactly one bit. -/
abbrev Descriptor.Wf (d : Descriptor) : Prop :=
  d.totalSize % 256 = 0 ∧ d.quadEnableBitMask &&& (d.quadEnableBitMask - 1) = 0

/-- R132(a), (b), (c). Advice to whoever writes a catalog: no step tests it. -/
abbrev Config.CatalogWf (c : Config) : Prop :=
  (c.catalog.map Descriptor.triplet).Nodup ∧ ∀ d ∈ c.catalog, d.Wf

end Sys2Proof
end

