-- ==== Sys2Proof/Decode.lean ====
section
/-! DEFINITION. The decoder of host requests (30_encoding.md R101, R102, R120) and of bus frames (R110, R111, R122), total and rejecting by name, and after it the encoder written from the same tables. -/

namespace Sys2Proof

/-- Why a byte sequence is no instruction. -/
inductive DecodeError where
  /-- There is no byte. -/
  | empty
  /-- A reserved operation code (R120). -/
  | reservedOperation (code : Byte)
  /-- A host request is one operation code: bytes stand after it (R100, R122). -/
  | trailingBytes (code : Byte)
  /-- A command byte outside the ten (R121). -/
  | unknownCommand (cmd : Byte)
  /-- A payload of a length the command does not have (R110, R121). -/
  | badPayload (cmd : Byte)
  deriving DecidableEq, Repr

/-- R102: all eight bits of `OP` are compared with the codes of R101; no match is an illegal request (R120). -/
def decodeRequest (code : Byte) : Except DecodeError Instr :=
  match code with
  | 0x01#8 => .ok .opInitialize
  | 0x02#8 => .ok .opReadBuffer
  | 0x03#8 => .ok .opWriteBuffer
  | 0x04#8 => .ok .opRead8
  | 0x05#8 => .ok .opRead16
  | 0x06#8 => .ok .opRead32
  | 0x07#8 => .ok .opChipErase
  | 0x08#8 => .ok .opEraseSector
  | 0x09#8 => .ok .opEraseBlock
  | 0x0A#8 => .ok .opReadMfrDevId
  | 0x0B#8 => .ok .opReadJedecId
  | 0x0C#8 => .ok .opGetTotalSize
  | 0x0D#8 => .ok .opGetPageSize
  | 0x0E#8 => .ok .opGetPageCount
  | 0x0F#8 => .ok .opReadStatus1
  | 0x10#8 => .ok .opReadStatus2
  | 0x11#8 => .ok .opWriteEnable
  | _ => .error (.reservedOperation code)

/-- The parameter that holds a bus command's byte (R110). -/
def Config.byteOf (c : Config) : BusCommand → Byte
  | .rdid => c.cmdRdid
  | .rdsr1 => c.cmdRdsr1
  | .rdsr2 => c.cmdRdsr2
  | .wrsr1 => c.cmdWrsr1
  | .wrsr2 => c.cmdWrsr2
  | .wren => c.cmdWren
  | .wrdi => c.cmdWrdi
  | .rsten => c.cmdRsten
  | .rst => c.cmdRst
  | .ce => c.cmdCe

/-- Which bus command a byte names (R110); the ten bytes are distinct in a well-formed configuration (R8). -/
def Config.commandOf (c : Config) (b : Byte) : Option BusCommand :=
  if b = c.cmdRdid then some .rdid
  else if b = c.cmdRdsr1 then some .rdsr1
  else if b = c.cmdRdsr2 then some .rdsr2
  else if b = c.cmdWrsr1 then some .wrsr1
  else if b = c.cmdWrsr2 then some .wrsr2
  else if b = c.cmdWren then some .wren
  else if b = c.cmdWrdi then some .wrdi
  else if b = c.cmdRsten then some .rsten
  else if b = c.cmdRst then some .rst
  else if b = c.cmdCe then some .ce
  else none

/-- A command that has no payload: nothing may follow its byte. -/
def bare (cmd : Byte) (i : Instr) : List Byte → Except DecodeError Instr
  | [] => .ok i
  | _ :: _ => .error (.badPayload cmd)

/-- The payload shapes of R110: one byte (single path, protection clear) or two (combined path) for `WRSR1`,
one for `WRSR2`. The length is not in the bytes: it is the frame's own (R122). -/
def decodePayload (cmd : Byte) : BusCommand → List Byte → Except DecodeError Instr
  | .rdid, p => bare cmd .cmdRdid p
  | .rdsr1, p => bare cmd .cmdRdsr1 p
  | .rdsr2, p => bare cmd .cmdRdsr2 p
  | .wrsr1, [b0] => .ok (.cmdWrsr1 [b0])
  | .wrsr1, [b0, b1] => .ok (.cmdWrsr1 [b0, b1])
  | .wrsr1, _ => .error (.badPayload cmd)
  | .wrsr2, [b0] => .ok (.cmdWrsr2 [b0])
  | .wrsr2, _ => .error (.badPayload cmd)
  | .wren, p => bare cmd .cmdWren p
  | .wrdi, p => bare cmd .cmdWrdi p
  | .rsten, p => bare cmd .cmdRsten p
  | .rst, p => bare cmd .cmdRst p
  | .ce, p => bare cmd .cmdCe p

/-- A bus frame: the command byte, then its payload bytes in order (R72, R111). -/
def decodeBus (c : Config) : List Byte → Except DecodeError Instr
  | [] => .error .empty
  | cmd :: payload =>
    match c.commandOf cmd with
    | some k => decodePayload cmd k payload
    | none => .error (.unknownCommand cmd)

/-- A host request as bytes: the operation code alone; the operands are registers (R100). -/
def decodeHost : List Byte → Except DecodeError Instr
  | [] => .error .empty
  | [code] => decodeRequest code
  | code :: _ :: _ => .error (.trailingBytes code)

/-- The decoder, in the space the bytes were sent in: two spaces reuse the same byte values
(0x01, 0x04, 0x05, 0x06 with the default parameters), so no byte alone tells its space. -/
def decode (c : Config) : Space → List Byte → Except DecodeError Instr
  | .host, bytes => decodeHost bytes
  | .bus, bytes => decodeBus c bytes

/-- The bytes of an instruction, from the tables of R101 and R110. -/
def encode (c : Config) : Instr → List Byte
  | .opInitialize => [0x01]
  | .opReadBuffer => [0x02]
  | .opWriteBuffer => [0x03]
  | .opRead8 => [0x04]
  | .opRead16 => [0x05]
  | .opRead32 => [0x06]
  | .opChipErase => [0x07]
  | .opEraseSector => [0x08]
  | .opEraseBlock => [0x09]
  | .opReadMfrDevId => [0x0A]
  | .opReadJedecId => [0x0B]
  | .opGetTotalSize => [0x0C]
  | .opGetPageSize => [0x0D]
  | .opGetPageCount => [0x0E]
  | .opReadStatus1 => [0x0F]
  | .opReadStatus2 => [0x10]
  | .opWriteEnable => [0x11]
  | .cmdRdid => [c.cmdRdid]
  | .cmdRdsr1 => [c.cmdRdsr1]
  | .cmdRdsr2 => [c.cmdRdsr2]
  | .cmdWrsr1 payload => c.cmdWrsr1 :: payload
  | .cmdWrsr2 payload => c.cmdWrsr2 :: payload
  | .cmdWren => [c.cmdWren]
  | .cmdWrdi => [c.cmdWrdi]
  | .cmdRsten => [c.cmdRsten]
  | .cmdRst => [c.cmdRst]
  | .cmdCe => [c.cmdCe]

/-- A table word read as a bus command: alone, or with one payload byte of zeros where the command needs a payload. -/
def decodeBusWord (c : Config) (b : Byte) : Except DecodeError Instr :=
  match decodeBus c [b] with
  | .ok i => .ok i
  | .error _ => decodeBus c [b, 0]

/-- The instruction read from a table word of `nbits` bits, with the default parameters. Every row has eight bits.
The host space is tried first (log 10): a byte that both spaces use reads as the host's operation. -/
def decodeTableWord (nbits w : Nat) : Option Instr :=
  if nbits = 8 then
    match decodeRequest (BitVec.ofNat 8 w) with
    | .ok i => some i
    | .error _ =>
      match decodeBusWord Config.standard (BitVec.ofNat 8 w) with
      | .ok i => some i
      | .error _ => none
  else none

end Sys2Proof
end

