-- ==== Sys2Proof/Machine/State.lean ====
section
/-! DEFINITION. The state of the machine (10_state.md R20): controller, host interface, sequencer, environment and trace, the reasons a step can stop, and the state after reset (R45). -/

namespace Sys2Proof.Machine

/-- The failures of 60_exceptions.md R211. Their status codes are `Failure.code` in Machine/Ops.lean. -/
inductive Failure where
  | unsupportedDevice
  | transportFailure
  | notImplemented
  | stateError
  | illegalOperation
  deriving DecidableEq, Repr

/-- The values of `phase` (R30): `IDLE` and the step labels of the operation rules. A label is local to an
operation: `g` is the gate of every gated operation and of `INITIALIZE`, `s1` and `s2` belong to both status reads,
`b1` and `b2` to the five transfers. -/
inductive Phase where
  | idle
  /-- `G`: the lifecycle gate (R231, R232). -/
  | g
  | i1 | i2 | i3 | i4 | i5 | i6a | i6b | i6c | i7 | i7r | i7a | i7b | i7c | i8 | i8a | i8b | i9 | i10 | i11 | i12
  /-- `M1`, `M2` of `READ_MFR_DEV_ID` (R171). -/
  | m1 | m2
  /-- `J1`, `J2` of `READ_JEDEC_ID` (R172). -/
  | j1 | j2
  /-- The one step of a geometry accessor (R175 to R177), which the spec does not label (DESIGN CHOICE, log 5). -/
  | acc
  /-- `S1`, `S2` of the status reads (R180, R181). -/
  | s1 | s2
  /-- `W1`, `W2` of `WRITE_ENABLE` (R182). -/
  | w1 | w2
  /-- `B1`, `B2` of the transfers (R190 to R194). -/
  | b1 | b2
  /-- `C1` to `C4` of `CHIP_ERASE` (R200). -/
  | c1 | c2 | c3 | c4
  /-- `E1` to `E3` of `ERASE_SECTOR` (R201). -/
  | e1 | e2 | e3
  /-- `K0` to `K3` of `ERASE_BLOCK` (R202). -/
  | k0 | k1 | k2 | k3
  deriving DecidableEq, Repr

/-- The three identification bytes in response order (R72). -/
structure Ident where
  manufacturer : Byte
  memoryType : Byte
  capacity : Byte
  deriving DecidableEq, Repr, Inhabited

/-- Scratch (R32: `id`, `cand`, `s`, `img`) and the other locals of the pseudocode (`d`, `ok`, `bytes`, `addr`).
Live only inside one operation, never visible to the host, and unspecified when the operation has ended (log 8). -/
structure Scratch where
  /-- `id[0..2]`. -/
  ident : Ident
  /-- `cand`: the lookup result. -/
  cand : Option Nat
  /-- `d := CATALOG[cand]` (R140, R143). -/
  device : Descriptor
  /-- `s`: the last status byte read. -/
  status : Byte
  /-- `img[0]`. -/
  img0 : Byte
  /-- `img[1]`. -/
  img1 : Byte
  /-- `ok`: the last boolean the transport returned (R182, R190, R191, R201). -/
  ok : Bool
  /-- `bytes`, `b[..]`: the bytes of the last `MemRead` (R190, R192 to R194). -/
  bytes : List Byte
  /-- `addr`: the sector address (R201). -/
  addr : Word
  deriving DecidableEq, Repr, Inhabited

end Sys2Proof.Machine

namespace Sys2Proof

/-- Free scratch: what the scratch registers hold outside an operation (10_state.md R32, U15: "any value"; log 8).
It stands here and not in Config.lean because it needs the type. -/
opaque Config.freeScratch : Nat → Machine.Scratch

end Sys2Proof

namespace Sys2Proof.Machine

/-- (a) Controller state the source names (R24 to R26). -/
structure Controller where
  activeDevice : Option Nat
  totalSize : Word
  pageSize : Word
  pageCount : Word
  currentAddress : Word
  deriving DecidableEq, Repr

/-- (b) Host-interface state (R21 to R23). `a0`, `a1`, `r0`, `st` are `x[0]` to `x[3]`. -/
structure HostInterface where
  op : Byte
  busy : Bool
  a0 : Word
  a1 : Word
  r0 : Word
  st : Word
  wbuf : List Byte
  rbuf : List Byte
  deriving DecidableEq, Repr

/-- (c) Sequencer state (R28, R30, R32). -/
structure Sequencer where
  phase : Phase
  busUp : Bool
  scratch : Scratch
  deriving DecidableEq, Repr

/-- Bytes by address over one background byte: an address that `cells` does not list reads as `fill`.
The canonical form is `Memory.wf` in Machine/Memory.lean. -/
structure Memory where
  fill : Byte
  cells : List Host.Cell
  deriving DecidableEq, Repr

/-- The reference chip of 60_exceptions.md R240: the flash chip's two status registers (R40), its write-enable
latch (R41), its other hidden state and its array (R42, R60). Not normative (D26, log 3). R240 says that `sr1` and `sr2`
hold the writable bits only, yet its `CMD_RST` row clears `SUS_MASK` of `sr2`, which no write of its can set; here both
hold any byte (DESIGN CHOICE, log 16). -/
structure Chip where
  jedec : Ident
  sr1 : Byte
  sr2 : Byte
  wel : Bool
  rstArmed : Bool
  /-- How many more reads of status register 1 show write-in-progress. -/
  busyReads : Nat
  mem : Memory
  size : Nat
  srWriteReads : Nat
  ceReads : Nat
  progReads : Nat
  seReads : Nat
  deriving DecidableEq, Repr

/-- One scripted answer of the transport: the boolean and the bytes of whichever primitive takes it. -/
structure Answer where
  ok : Bool
  bytes : List Byte
  deriving DecidableEq, Repr

/-- (d) The environment behind the seven primitives (R20, R63). -/
inductive Transport where
  /-- An oracle: every answer is a free value (R63, log 2). -/
  | oracle
  /-- The answers of a test script, first answer first (95_test_vectors.md); when they are used up, an oracle. -/
  | scripted (answers : List Answer)
  /-- The reference chip (R240). -/
  | reference (chip : Chip)
  deriving DecidableEq, Repr

/-- The transport primitives (00_scope.md R13). -/
inductive Primitive where
  | begin
  | readCommand (op : Byte) (n : Nat)
  | writeCommand (op : Byte) (payload : List Byte)
  | runCommand (op : Byte)
  | memRead (addr : Word) (n : Word)
  | memWrite (addr : Word) (data : List Byte)
  | eraseSector (addr : Word)
  deriving DecidableEq, Repr

/-- The events of the trace (20_memory.md R70), each with the answer the call returned. -/
inductive Event where
  | begin
  | readCmd (op : Byte) (n : Nat) (response : List Byte)
  | writeCmd (op : Byte) (payload : List Byte)
  | runCmd (op : Byte) (ok : Bool)
  | readMem (addr : Word) (n : Word) (ok : Bool) (data : List Byte)
  | writeMem (addr : Word) (data : List Byte) (ok : Bool)
  | eraseSector (addr : Word) (ok : Bool)
  | delay (us : Nat)
  deriving DecidableEq, Repr

/-- What the outside does (60_exceptions.md R236, 70_reset_and_hazards.md R250; log 4). -/
inductive HostMove where
  /-- Write `a0`, `a1`, `WBUF` and then `OP`; it waits at the head while `busy = 1`. -/
  | request (r : Request)
  /-- The host makes no move during one step. -/
  | wait
  /-- Reset of the engine, at this very step. -/
  | reset
  deriving DecidableEq, Repr

/-- The whole machine. -/
structure State where
  /-- The parameters of R8: constant, no step changes them (log 1). -/
  config : Config
  ctrl : Controller
  io : HostInterface
  seq : Sequencer
  transport : Transport
  /-- Every primitive call and delay, oldest first (R70). The engine never reads it. -/
  trace : List Event
  /-- Host moves still to come, next one first. -/
  inputs : List HostMove
  /-- The model's own: how many free values have been drawn (log 2). -/
  draws : Nat
  /-- The test harness's own: reads the present busy-wait has made without success (R184, log 13). -/
  polls : Nat
  deriving DecidableEq, Repr

/-- Why the machine stops. The hardware itself never does: "no operation throws" (R210). -/
inductive Fault where
  /-- Raised by fetching the next step when `busy = 1` and `OP` holds no operation code: no run reaches such a
  state and the spec gives it no step (log 14). Safe: the model stops. -/
  | lostOperation
  deriving DecidableEq, Repr

/-- Why a step has no meaning. -/
inductive Refusal where
  /-- Raised by `exec` for an instruction without a meaning. Safe: the model stops. No arm uses it. -/
  | notModelled (mnemonic : String)
  /-- Raised by a host operation asked to run while the sequencer stands at a label of another operation: a
  request while `busy = 1`, a move the host does not have (R236, U1; log 14). Safe: the model stops. -/
  | requestWhileBusy
  /-- Raised by a busy-poll when the test harness's `POLL_LIMIT` is used up: the run is *not finished* (R184;
  log 13). Safe: the model stops. Never with the normative value `none`. -/
  | notFinished
  deriving DecidableEq, Repr

/-- Scratch before anything is written to it. The spec leaves it unspecified (R45): DESIGN CHOICE, log 6. -/
def Scratch.blank : Scratch where
  ident := ⟨0, 0, 0⟩
  cand := none
  device := Descriptor.blank
  status := 0
  img0 := 0
  img1 := 0
  ok := false
  bytes := []
  addr := 0

/-- Controller registers after reset (R45): no active device, geometry at `GEOM_RESET`. -/
def Controller.atReset (c : Config) : Controller where
  activeDevice := none
  totalSize := c.geomReset.totalSize
  pageSize := c.geomReset.pageSize
  pageCount := c.geomReset.pageCount
  currentAddress := 0

/-- Host-interface registers after reset (R45). `OP` is "not readable; nothing pending": 0x00 is a DESIGN CHOICE, log 6. -/
def HostInterface.atReset : HostInterface where
  op := 0
  busy := false
  a0 := 0
  a1 := 0
  r0 := 0
  st := 0
  wbuf := []
  rbuf := []

/-- Sequencer state after reset (R45). -/
def Sequencer.atReset : Sequencer where
  phase := .idle
  busUp := false
  scratch := Scratch.blank

/-- The machine after reset with parameters `c` (R45, R250), nothing attached but an unconstrained transport,
nothing recorded, and a host that makes no move. -/
def State.resetWith (c : Config) : State where
  config := c
  ctrl := Controller.atReset c
  io := HostInterface.atReset
  seq := Sequencer.atReset
  transport := .oracle
  trace := []
  inputs := []
  draws := 0
  polls := 0

/-- The machine right after reset, every parameter at its default (R8, R45). -/
def State.reset : State := State.resetWith Config.standard

end Sys2Proof.Machine
end

