-- ==== Sys2Proof/Machine/Flags.lean ====
section
/-! DEFINITION. The engine's flags (10_state.md R29) and every test of a status bit (41_initialize.md R148, 43_status_access.md R183). -/

namespace Sys2Proof.Machine

/-- `initialized` is not stored: it is `active_device != None` (R29, R230). -/
def State.initialized (s : State) : Bool := s.ctrl.activeDevice.isSome

/-- R183, R148: a tested bit counts as set when `(s AND mask) != 0`. -/
def bitsSet (status mask : Byte) : Bool := status &&& mask != 0

/-- R148: the quad-enable step is skipped for a part whose mask is 0. -/
def quadEnableApplies (d : Descriptor) : Bool := d.quadEnableBitMask != 0

/-- R148: the register that holds the quad-enable bit is chosen by `single_status_byte` alone. -/
def quadStatusCommand (d : Descriptor) : BusCommand :=
  if d.singleStatusByte then .rdsr1 else .rdsr2

/-- R184: the harness's bound on one busy-wait is used up. -/
def State.pollLimitReached (s : State) : Bool :=
  match s.config.pollLimit with
  | none => false
  | some n => decide (n ≤ s.polls)

end Sys2Proof.Machine
end

