-- ==== Sys2Proof/Machine/Operands.lean ====
section
/-! DEFINITION. Operand and result assembly (30_encoding.md R115 to R117, 20_memory.md R73) and the catalog lookup (40_catalog.md R131). -/

namespace Sys2Proof.Machine

/-- R116: `(a0 * SECTOR_SIZE) mod 2^32`. -/
def sectorAddress (sectorNumber sectorSize : Word) : Word := sectorNumber * sectorSize

/-- The identification response `[manufacturer_id, memory_type, capacity]` (R72, R142) as `id[0..2]`. -/
def Ident.ofResponse (bytes : List Byte) : Ident :=
  ⟨bytes.getD 0 0, bytes.getD 1 0, bytes.getD 2 0⟩

/-- R171: the identification byte that `MFR_DEV_DEVICE_INDEX` calls "device". -/
def Ident.deviceByte (i : Ident) : DeviceIndex → Byte
  | .one => i.memoryType
  | .two => i.capacity

/-- R73, R171: `zext_32(manufacturer ++ device)`. -/
def packMfrDev (i : Ident) (k : DeviceIndex) : Word :=
  (i.manufacturer ++ i.deviceByte k).zeroExtend 32

/-- R73, R172: `zext_32(id[0] ++ id[1] ++ id[2])`. -/
def packJedec (i : Ident) : Word :=
  (i.manufacturer ++ i.memoryType ++ i.capacity).zeroExtend 32

/-- R192: `zext_32(b[0])`. -/
def assemble8 (b : List Byte) : Word := (b.getD 0 0).zext

/-- R193: `zext_32(b[1] ++ b[0])`, little-endian. -/
def assemble16 (b : List Byte) : Word := (b.getD 1 0 ++ b.getD 0 0).zeroExtend 32

/-- R194: `b[3] ++ b[2] ++ b[1] ++ b[0]`, little-endian. -/
def assemble32 (b : List Byte) : Word := b.getD 3 0 ++ b.getD 2 0 ++ b.getD 1 0 ++ b.getD 0 0

/-- Failure values of the typed reads (R8, R192 to R194). -/
def sentinel8 (c : Config) : Word := c.errSentinel8.zext

def sentinel16 (c : Config) : Word := c.errSentinel16.zeroExtend 32

def sentinel32 (c : Config) : Word := c.errSentinel32

/-- R131: all three bytes match exactly. -/
def Ident.matchesRow (i : Ident) (d : Descriptor) : Bool :=
  d.manufacturerId == i.manufacturer && d.memoryType == i.memoryType && d.capacity == i.capacity

/-- The scan of R131 from row `k` on. -/
def lookupFrom (i : Ident) (k : Nat) : List Descriptor → Option (Nat × Descriptor)
  | [] => none
  | d :: rest => if i.matchesRow d then some (k, d) else lookupFrom i (k + 1) rest

/-- `Lookup` (R131): the first row that matches, with its index. -/
def lookup (catalog : List Descriptor) (i : Ident) : Option (Nat × Descriptor) := lookupFrom i 0 catalog

/-- R150: the command and payload of the quad-enable write, from the status image and the descriptor's flags,
tested in this order. -/
def quadWrite (d : Descriptor) (img0 img1 : Byte) : BusCommand × List Byte :=
  if d.writeStatusRegisterSplit then (.wrsr2, [img1])
  else if d.singleStatusByte then (.wrsr1, [img1])
  else (.wrsr1, [img0, img1])

/-- R154: `page_count = total_size div 256`. -/
def pageCountOf (totalSize : Word) : Word := totalSize / Config.pageSizeBytes

end Sys2Proof.Machine
end

