-- ==== Sys2Proof/Machine/Memory.lean ====
section
/-! DEFINITION. The flash array of the reference chip (20_memory.md R60, 60_exceptions.md R240): bytes by address in one canonical form. -/

namespace Sys2Proof.Machine

/-- An array whose every byte is `b`. -/
def Memory.uniform (b : Byte) : Memory := ⟨b, []⟩

/-- The listed byte at `addr`, if any. -/
def cellAt (addr : Nat) : List Host.Cell → Option Byte
  | [] => none
  | (a, b) :: rest => if a = addr then some b else cellAt addr rest

/-- What the array holds at `addr`: the listed byte, else the background. -/
def Memory.read (m : Memory) (addr : Nat) : Byte := (cellAt addr m.cells).getD m.fill

/-- Puts a listed byte in its place. -/
def putCell (addr : Nat) (b : Byte) : List Host.Cell → List Host.Cell
  | [] => [(addr, b)]
  | (a, v) :: rest =>
    if addr < a then (addr, b) :: (a, v) :: rest
    else if a = addr then (addr, b) :: rest
    else (a, v) :: putCell addr b rest

/-- Removes an entry. -/
def dropCell (addr : Nat) : List Host.Cell → List Host.Cell
  | [] => []
  | (a, v) :: rest => if a = addr then dropCell addr rest else (a, v) :: dropCell addr rest

/-- Writes one byte; writing the background byte removes the entry. -/
def Memory.write (m : Memory) (addr : Nat) (b : Byte) : Memory :=
  if b = m.fill then { m with cells := dropCell addr m.cells }
  else { m with cells := putCell addr b m.cells }

/-- The `n` bytes from `addr` up. -/
def Memory.readRange (m : Memory) (addr : Nat) : Nat → List Byte
  | 0 => []
  | n + 1 => m.read addr :: m.readRange (addr + 1) n

/-- R240, `MemWrite`: `mem[addr+i] <- mem[addr+i] AND v[i]` (programming only clears bits). -/
def Memory.program (m : Memory) (addr : Nat) : List Byte → Memory
  | [] => m
  | v :: vs => (m.write addr (m.read addr &&& v)).program (addr + 1) vs

/-- Sets the `n` bytes from `addr` up to `b`. -/
def Memory.fillRange (m : Memory) (addr n : Nat) (b : Byte) : Memory :=
  { m with
    cells := m.cells.filter (fun c => c.1 < addr)
      ++ (if b = m.fill then [] else (List.range n).map fun i => (addr + i, b))
      ++ m.cells.filter (fun c => addr + n ≤ c.1) }

/-- The canonical form: addresses strictly rising, no entry equal to the background. -/
abbrev Memory.wf (m : Memory) : Prop :=
  m.cells.Pairwise (fun c d => c.1 < d.1) ∧ ∀ c ∈ m.cells, c.2 ≠ m.fill

/-- The array of the attached chip is canonical (nothing to ask where no chip is attached). -/
abbrev Transport.memoryWf : Transport → Prop
  | .oracle => True
  | .scripted _ => True
  | .reference chip => chip.mem.wf

end Sys2Proof.Machine
end

