-- ==== Sys2Proof/Machine/Chip.lean ====
section
/-! DEFINITION. The reference chip (60_exceptions.md R240), one definition per row of its table: what it answers and what it becomes. Not normative for the engine (D26). -/

namespace Sys2Proof.Machine

/-- R240, the last row: any command other than `CMD_RST` after `CMD_RSTEN` disarms the reset. -/
def Chip.disarm (c : Chip) : Chip := { c with rstArmed := false }

/-- `T.readCommand(CMD_RDSR1, 1)`: the byte shows write-in-progress while busy reads remain. -/
def Chip.shownStatus1 (p : Config) (c : Chip) : Byte :=
  c.sr1 ||| (if c.busyReads > 0 then p.wipMask else 0)

/-- What a `T.readCommand` returns. A byte that is none of the three read commands has no row: nothing is said. -/
def Chip.readResponse (p : Config) (op : Byte) (c : Chip) : List Byte :=
  match p.commandOf op with
  | some .rdid => [c.jedec.manufacturer, c.jedec.memoryType, c.jedec.capacity]
  | some .rdsr1 => [c.shownStatus1 p]
  | some .rdsr2 => [c.sr2]
  | _ => []

/-- What a `T.readCommand` changes: a read of status register 1 uses up one busy read. -/
def Chip.afterRead (p : Config) (op : Byte) (c : Chip) : Chip :=
  match p.commandOf op with
  | some .rdsr1 => { c.disarm with busyReads := c.busyReads - 1 }
  | _ => c.disarm

/-- The chip accepts a status write or a chip erase only with the latch set and nothing in flight. -/
def Chip.accepts (c : Chip) : Bool := c.wel && c.busyReads == 0

/-- A status write that the chip accepts uses up the latch and keeps the chip busy. -/
def Chip.spendWrite (c : Chip) : Chip := { c with wel := false, busyReads := c.srWriteReads }

/-- `T.writeCommand`: the three payload shapes of R240; any other is ignored. -/
def Chip.afterWrite (p : Config) (op : Byte) (payload : List Byte) (c : Chip) : Chip :=
  let d := c.disarm
  if c.accepts then
    match p.commandOf op, payload with
    | some .wrsr1, [b0] => { d.spendWrite with sr1 := b0 &&& ~~~p.wipMask }
    | some .wrsr1, [b0, b1] => { d.spendWrite with sr1 := b0 &&& ~~~p.wipMask, sr2 := b1 &&& ~~~p.susMask }
    | some .wrsr2, [b0] => { d.spendWrite with sr2 := b0 &&& ~~~p.susMask }
    | _, _ => d
  else d

/-- `T.runCommand(CMD_RST)`: a reset only when armed. -/
def Chip.resetIfArmed (p : Config) (c : Chip) : Chip :=
  if c.rstArmed then
    { c with wel := false, rstArmed := false, sr2 := c.sr2 &&& ~~~p.susMask, busyReads := 0 }
  else c

/-- `T.runCommand(CMD_CE)`: every byte 0xFF, if the chip accepts. -/
def Chip.eraseAll (c : Chip) : Chip :=
  if c.accepts then { c with mem := Memory.uniform 0xFF, wel := false, busyReads := c.ceReads } else c

/-- `T.runCommand`: the five commands without payload; it returns true for each. A second `CMD_RSTEN` directly after
`CMD_RSTEN`: its own row arms the reset and the last row disarms it, and R240 does not say which holds; the chip stays
armed (DESIGN CHOICE, log 16). -/
def Chip.afterRun (p : Config) (op : Byte) (c : Chip) : Chip :=
  match p.commandOf op with
  | some .wren => if c.busyReads = 0 then { c.disarm with wel := true } else c.disarm
  | some .wrdi => { c.disarm with wel := false }
  | some .rsten => { c with rstArmed := true }
  | some .rst => c.resetIfArmed p
  | some .ce => c.disarm.eraseAll
  | _ => c.disarm

/-- `MemRead(addr, n)`: inside the array the bytes; past its end `false` and bytes nobody specifies. -/
def Chip.readAnswer (addr n : Nat) (c : Chip) : Answer :=
  if addr + n ≤ c.size then ⟨true, c.mem.readRange addr n⟩ else ⟨false, []⟩

/-- `MemWrite(addr, n, v)`: self-contained; past the end `false` and no effect. -/
def Chip.afterProgram (addr : Nat) (data : List Byte) (c : Chip) : Chip :=
  if addr + data.length ≤ c.size then { c with mem := c.mem.program addr data, busyReads := c.progReads } else c

/-- `T.eraseSector(addr)`: self-contained; the sector that holds `addr`, up to the array's end (log 16). -/
def Chip.afterErase (sectorSize addr : Nat) (c : Chip) : Chip :=
  if addr < c.size then
    let base := addr - addr % sectorSize
    { c with mem := c.mem.fillRange base (min sectorSize (c.size - base)) 0xFF, busyReads := c.seReads }
  else c

/-- What the reference chip answers to a primitive. -/
def Chip.answer (p : Config) (c : Chip) : Primitive → Answer
  | .begin => ⟨true, []⟩
  | .readCommand op _ => ⟨true, c.readResponse p op⟩
  | .writeCommand _ _ => ⟨true, []⟩
  | .runCommand _ => ⟨true, []⟩
  | .memRead addr n => c.readAnswer addr.toNat n.toNat
  | .memWrite addr data => ⟨decide (addr.toNat + data.length ≤ c.size), []⟩
  | .eraseSector addr => ⟨decide (addr.toNat < c.size), []⟩

/-- What the reference chip becomes. -/
def Chip.after (p : Config) (c : Chip) : Primitive → Chip
  | .begin => c
  | .readCommand op _ => c.afterRead p op
  | .writeCommand op payload => c.afterWrite p op payload
  | .runCommand op => c.afterRun p op
  | .memRead _ _ => c
  | .memWrite addr data => c.afterProgram addr.toNat data
  | .eraseSector addr => c.afterErase p.sectorSize.toNat addr.toNat

end Sys2Proof.Machine
end

