-- ==== Sys2Proof/Machine/Transport.lean ====
section
/-! DEFINITION. The transport as the engine sees it (20_memory.md R63 to R69): what a primitive call answers, how the answer is fitted to the length asked, and the event it leaves in the trace (R70). -/

namespace Sys2Proof.Machine

/-- How many bytes a primitive asks for (R66, R69). -/
def Primitive.asked : Primitive → Nat
  | .readCommand _ n => n
  | .memRead _ n => n.toNat
  | .begin | .writeCommand _ _ | .runCommand _ | .memWrite _ _ | .eraseSector _ => 0

/-- Whether a primitive returns anything (R13): `T.begin` and `T.writeCommand` do not. -/
def Primitive.answers : Primitive → Bool
  | .begin | .writeCommand _ _ => false
  | .readCommand _ _ | .runCommand _ | .memRead _ _ | .memWrite _ _ | .eraseSector _ => true

/-- Exactly `n` bytes: the first `n` of those given, and free bytes (numbered from `d`) for any that are missing. -/
def fit (d : Nat) : Nat → List Byte → List Byte
  | 0, _ => []
  | n + 1, [] => Config.freeByte d :: fit (d + 1) n []
  | n + 1, b :: bs => b :: fit (d + 1) n bs

/-- The unfitted answer. The oracle's is free; so is the reference chip's while the bus is not up (R64). -/
def Transport.rawAnswer (t : Transport) (c : Config) (busUp : Bool) (d : Nat) (p : Primitive) : Answer :=
  match t with
  | .oracle => ⟨Config.freeBool d, []⟩
  | .scripted [] => ⟨Config.freeBool d, []⟩
  | .scripted (a :: _) => a
  | .reference chip => if busUp then chip.answer c p else ⟨Config.freeBool d, []⟩

/-- The transport after the call: a script has used one answer if the primitive answers, the chip has reacted. -/
def Transport.after (t : Transport) (c : Config) (p : Primitive) : Transport :=
  match t with
  | .oracle => .oracle
  | .scripted answers => .scripted (if p.answers then answers.tail else answers)
  | .reference chip => .reference (chip.after c p)

/-- The event of a call that returned `a` (R70). -/
def Primitive.event (a : Answer) : Primitive → Event
  | .begin => .begin
  | .readCommand op n => .readCmd op n a.bytes
  | .writeCommand op payload => .writeCmd op payload
  | .runCommand op => .runCmd op a.ok
  | .memRead addr n => .readMem addr n a.ok a.bytes
  | .memWrite addr data => .writeMem addr data a.ok
  | .eraseSector addr => .eraseSector addr a.ok

/-- What a primitive called in state `s` answers: any boolean, and bytes of exactly the length asked (R63). -/
def State.ask (p : Primitive) (s : State) : Answer :=
  let raw := s.transport.rawAnswer s.config s.seq.busUp s.draws p
  ⟨raw.ok, fit (s.draws + 1) p.asked raw.bytes⟩

/-- The state after the call has returned: the environment has moved on and the event is recorded (R13, R70). -/
def State.call (p : Primitive) (s : State) : State :=
  { s with
    transport := s.transport.after s.config p
    trace := s.trace ++ [p.event (s.ask p)]
    draws := s.draws + 1 + p.asked }

end Sys2Proof.Machine
end

