-- ==== Sys2Proof/Machine/Ops.lean ====
section
/-! DEFINITION. The shared operations: the sequencer's moves, ending an operation by `complete` or `raise` (00_scope.md R15), the transport primitives as the operations use them (R13), the busy-poll (43_status_access.md R183), reset (70_reset_and_hazards.md R250 to R252) and the host's view (R21, R236). -/

namespace Sys2Proof.Machine

/-- What `exec` answers. -/
abbrev Result := Host.Outcome State Fault Refusal

/-- `pc <- p` (R12). -/
def State.goto (p : Phase) (s : State) : State := { s with seq := { s.seq with phase := p } }

/-- Replaces the scratch registers. -/
def State.withScratch (x : Scratch) (s : State) : State := { s with seq := { s.seq with scratch := x } }

/-- R21: a request is taken up: `busy <- 1`, `pc <-` the first step. -/
def State.startAt (p : Phase) (s : State) : State :=
  { s with io := { s.io with busy := true }, seq := { s.seq with phase := p } }

/-- The status codes of R211. `OK` is 0. -/
def Failure.code : Failure → Word
  | .unsupportedDevice => 1
  | .transportFailure => 2
  | .notImplemented => 3
  | .stateError => 4
  | .illegalOperation => 5

/-- What `raise` and `complete` share (R15): `st`, `r0`, `busy <- 0`, `pc <- IDLE`, and nothing else. -/
def State.finish (st r0 : Word) (s : State) : State :=
  { s with
    io := { s.io with st := st, r0 := r0, busy := false }
    seq := { s.seq with phase := .idle } }

/-- TAKING A FAILURE (R15, R210, R222): `raise e` with the failure value the operation's rule names. There is no
return instruction beside it (R223): after it the engine is idle and takes any request. -/
def State.raise (e : Failure) (failureValue : Word) (s : State) : State := s.finish e.code failureValue

/-- The normal end (R15): `complete(v)`. -/
def State.complete (v : Word) (s : State) : State := s.finish 0 v

/-- R23, U7, D35: after any operation but a successful `READ_BUFFER`, `RBUF` is unspecified: a free value (log 7). -/
def State.forgetRbuf (s : State) : State :=
  { s with io := { s.io with rbuf := Config.freeBytes s.draws }, draws := s.draws + 1 }

/-- R32, U15: scratch is unspecified outside an operation: a free value from the end of one on (log 8). -/
def State.forgetScratch (s : State) : State :=
  { s with seq := { s.seq with scratch := Config.freeScratch s.draws }, draws := s.draws + 1 }

/-- An operation that leaves `RBUF` unspecified ends normally. -/
def State.endOk (v : Word) (s : State) : State := (s.complete v).forgetRbuf.forgetScratch

/-- An operation ends by a failure. -/
def State.endFailed (e : Failure) (failureValue : Word) (s : State) : State :=
  (s.raise e failureValue).forgetRbuf.forgetScratch

/-- R190: `RBUF <- bytes; complete(v)`. -/
def State.endRead (bytes : List Byte) (v : Word) (s : State) : State :=
  let t := s.complete v
  ({ t with io := { t.io with rbuf := bytes } } : State).forgetScratch

/-- The lifecycle gate `G` (R231): go on in state INITIALIZED, else `StateError` with the operation's failure value. -/
def State.gate (failureValue : Word) (next : Phase) (s : State) : State :=
  if s.initialized then s.goto next else s.endFailed .stateError failureValue

/-- `T.begin(); bus_up <- 1` (R65, R141). -/
def State.beginBus (s : State) : State :=
  let t := s.call .begin
  { t with seq := { t.seq with busUp := true } }

/-- `id[0..2] <- T.readCommand(CMD_RDID, 3)` (R66, R142). -/
def State.readIdent (s : State) : State :=
  let p := Primitive.readCommand (s.config.byteOf .rdid) 3
  (s.call p).withScratch { s.seq.scratch with ident := Ident.ofResponse (s.ask p).bytes }

/-- `s <- T.readCommand(cmd, 1)[0]` (R66, R180, R181, R183). -/
def State.readStatus (c : BusCommand) (s : State) : State :=
  let p := Primitive.readCommand (s.config.byteOf c) 1
  (s.call p).withScratch { s.seq.scratch with status := (s.ask p).bytes.getD 0 0 }

/-- `T.writeCommand(cmd, payload)` (R67). -/
def State.writeStatus (c : BusCommand) (payload : List Byte) (s : State) : State :=
  s.call (.writeCommand (s.config.byteOf c) payload)

/-- `ok <- T.runCommand(cmd)` (R68). A caller that discards the answer never reads `ok`. -/
def State.runCommand (c : BusCommand) (s : State) : State :=
  let p := Primitive.runCommand (s.config.byteOf c)
  (s.call p).withScratch { s.seq.scratch with ok := (s.ask p).ok }

/-- `(ok, bytes) <- MemRead(addr, n)` (R69). -/
def State.memRead (addr n : Word) (s : State) : State :=
  let p := Primitive.memRead addr n
  (s.call p).withScratch { s.seq.scratch with ok := (s.ask p).ok, bytes := (s.ask p).bytes }

/-- The `a1` bytes of `WBUF` (R23); a host that supplied another length is log 12. -/
def State.writeData (s : State) : List Byte := fit s.draws s.io.a1.toNat s.io.wbuf

/-- `ok <- MemWrite(a0, a1, WBUF)` (R69, R191). -/
def State.memWrite (s : State) : State :=
  let p := Primitive.memWrite s.io.a0 s.writeData
  let t := { s with draws := s.draws + s.io.a1.toNat }
  (t.call p).withScratch { s.seq.scratch with ok := (t.ask p).ok }

/-- `ok <- T.eraseSector(addr)` (R69, R201). -/
def State.eraseSector (addr : Word) (s : State) : State :=
  let p := Primitive.eraseSector addr
  (s.call p).withScratch { s.seq.scratch with ok := (s.ask p).ok }

/-- `Delay(us)` (R14): one step, one event, nothing on the bus. -/
def State.delay (us : Nat) (s : State) : State := { s with trace := s.trace ++ [.delay us] }

/-- One pass of `WaitWhile(cmd, mask)` standing at `again` (R183): read, test, poll again or go on to `after`.
The harness's bound (R184) ends the run, never the operation. -/
def State.poll (c : BusCommand) (mask : Byte) (again after : Phase) (s : State) : Result :=
  if s.pollLimitReached then .refused .notFinished
  else
    let t := s.readStatus c
    if bitsSet t.seq.scratch.status mask then .next ({ t with polls := t.polls + 1 }.goto again)
    else .next ({ t with polls := 0 }.goto after)

/-- R236, R100: the host writes `a0`, `a1`, `WBUF` and then `OP`. -/
def State.hostWrite (r : Request) (s : State) : State :=
  { s with io := { s.io with op := r.op, a0 := r.a0, a1 := r.a1, wbuf := r.wbuf } }

/-- R120, R216: a reserved code: `st <- 5`, `r0 <- 0`, no event, no other change. -/
def State.illegalRequest (s : State) : State := s.raise .illegalOperation 0

/-- R250 to R252: every engine register at its reset value; the chip, the transport and what was already sent are
not touched, and no event is issued. -/
def State.engineReset (s : State) : State :=
  { s with
    ctrl := Controller.atReset s.config
    io := HostInterface.atReset
    seq := Sequencer.atReset
    polls := 0 }

/-- What the host reads of `busy`, at any time (R21, R236). -/
def State.hostBusy (s : State) : Bool := s.io.busy

/-- A completion as the host reads it: `(st, r0, RBUF)` (R100). -/
structure Completion where
  st : Word
  r0 : Word
  rbuf : List Byte
  deriving DecidableEq, Repr

/-- R236: `st`, `r0`, `RBUF` can be read only when `busy = 0`. -/
def State.hostCompletion (s : State) : Option Completion :=
  if s.io.busy then none else some ⟨s.io.st, s.io.r0, s.io.rbuf⟩

/-- The boolean a source function returns (R210): `st = 0`. -/
def Completion.succeeded (c : Completion) : Bool := c.st == 0

end Sys2Proof.Machine
end

