-- ==== Sys2Proof/Machine/BusCommands.lean ====
section
/-! DEFINITION. The meanings of the ten bus commands (30_encoding.md R110, R111): the one primitive call by which the engine sends each, its event and the answer kept in scratch. Moving on to the next label is the operation's business. -/

namespace Sys2Proof.Machine

/-- `RDID` (R110, R142): three response bytes into `id`. -/
def execCmdRdid (s : State) : Result := .next s.readIdent

/-- `RDSR1` (R110, R180): one response byte into `s`. -/
def execCmdRdsr1 (s : State) : Result := .next (s.readStatus .rdsr1)

/-- `RDSR2` (R110, R181): one response byte into `s`. -/
def execCmdRdsr2 (s : State) : Result := .next (s.readStatus .rdsr2)

/-- `WRSR1` (R110, R150, R151). -/
def execCmdWrsr1 (payload : List Byte) (s : State) : Result := .next (s.writeStatus .wrsr1 payload)

/-- `WRSR2` (R110, R150). -/
def execCmdWrsr2 (payload : List Byte) (s : State) : Result := .next (s.writeStatus .wrsr2 payload)

/-- `WREN` (R110, R182). -/
def execCmdWren (s : State) : Result := .next (s.runCommand .wren)

/-- `WRDI` (R110, R152). -/
def execCmdWrdi (s : State) : Result := .next (s.runCommand .wrdi)

/-- `RSTEN` (R110, R146). -/
def execCmdRsten (s : State) : Result := .next (s.runCommand .rsten)

/-- `RST` (R110, R146). -/
def execCmdRst (s : State) : Result := .next (s.runCommand .rst)

/-- `CE` (R110, R200). -/
def execCmdCe (s : State) : Result := .next (s.runCommand .ce)

end Sys2Proof.Machine
end

