-- ==== Sys2Proof/Machine/Erase.lean ====
section
/-! DEFINITION. The meanings of the erase operations (45_erase.md R200 to R202). All three are gated. -/

namespace Sys2Proof.Machine

/-- `CHIP_ERASE` (R200). -/
def execChipErase (s : State) : Result :=
  match s.seq.phase with
  | .idle => .next (s.startAt .g)
  | .g => .next (s.gate 0 .c1)
  | .c1 => .next ((s.runCommand .wren).goto .c2)
  | .c2 => .next ((s.runCommand .ce).goto .c3)
  | .c3 => s.poll .rdsr1 s.config.wipMask .c3 .c4
  | .c4 => .next (s.endOk 0)
  | _ => .refused .requestWhileBusy

/-- R201, `E3`: the mode `always_ok` reports success whatever the transport said. -/
def State.eraseReported (s : State) : Bool :=
  match s.config.eraseSectorResult with
  | .alwaysOk => true
  | .propagate => s.seq.scratch.ok

/-- `ERASE_SECTOR` (R201). -/
def execEraseSector (s : State) : Result :=
  match s.seq.phase with
  | .idle => .next (s.startAt .g)
  | .g => .next (s.gate 0 .e1)
  | .e1 =>
    .next ((s.withScratch { s.seq.scratch with addr := sectorAddress s.io.a0 s.config.sectorSize }).goto .e2)
  | .e2 => .next ((s.eraseSector s.seq.scratch.addr).goto .e3)
  | .e3 => .next (if s.eraseReported then s.endOk 1 else s.endFailed .transportFailure 0)
  | _ => .refused .requestWhileBusy

/-- R202: the first step behind the gate, by `ERASE_BLOCK_MODE`. -/
def eraseBlockEntry : EraseBlockMode → Phase
  | .notImplemented => .k0
  | .sourceBracket => .k1

/-- `ERASE_BLOCK` (R202). -/
def execEraseBlock (s : State) : Result :=
  match s.seq.phase with
  | .idle => .next (s.startAt .g)
  | .g => .next (s.gate 0 (eraseBlockEntry s.config.eraseBlockMode))
  | .k0 => .next (s.endFailed .notImplemented 0)
  | .k1 => .next ((s.runCommand .wren).goto .k2)
  | .k2 => s.poll .rdsr1 s.config.wipMask .k2 .k3
  | .k3 => .next (s.endOk 0)
  | _ => .refused .requestWhileBusy

end Sys2Proof.Machine
end

