-- ==== Sys2Proof/Machine/Identification.lean ====
section
/-! DEFINITION. The meanings of the identification queries (42_identification.md R170 to R172) and the geometry accessors (R175 to R177). None is gated. -/

namespace Sys2Proof.Machine

/-- `READ_MFR_DEV_ID` (R171). -/
def execReadMfrDevId (s : State) : Result :=
  match s.seq.phase with
  | .idle => .next (s.startAt .m1)
  | .m1 => .next (s.readIdent.goto .m2)
  | .m2 => .next (s.endOk (packMfrDev s.seq.scratch.ident s.config.mfrDevDeviceIndex))
  | _ => .refused .requestWhileBusy

/-- `READ_JEDEC_ID` (R172). -/
def execReadJedecId (s : State) : Result :=
  match s.seq.phase with
  | .idle => .next (s.startAt .j1)
  | .j1 => .next (s.readIdent.goto .j2)
  | .j2 => .next (s.endOk (packJedec s.seq.scratch.ident))
  | _ => .refused .requestWhileBusy

/-- What the three accessors share (R175 to R177): `complete(value)`, no event. -/
def accessor (value : Word) (s : State) : Result :=
  match s.seq.phase with
  | .idle => .next (s.startAt .acc)
  | .acc => .next (s.endOk value)
  | _ => .refused .requestWhileBusy

/-- `GET_TOTAL_SIZE` (R175). -/
def execGetTotalSize (s : State) : Result := accessor s.ctrl.totalSize s

/-- `GET_PAGE_SIZE` (R176). -/
def execGetPageSize (s : State) : Result := accessor s.ctrl.pageSize s

/-- `GET_PAGE_COUNT` (R177). -/
def execGetPageCount (s : State) : Result := accessor s.ctrl.pageCount s

end Sys2Proof.Machine
end

