-- ==== Sys2Proof/Machine/Initialize.lean ====
section
/-! DEFINITION. The meaning of `INITIALIZE` (41_initialize.md R140 to R155), one arm per label. -/

namespace Sys2Proof.Machine

/-- Step 3 (R143): look the triplet up; unknown: `UnsupportedDevice` and nothing more is sent. -/
def State.identify (s : State) : State :=
  match lookup s.config.catalog s.seq.scratch.ident with
  | none => s.endFailed .unsupportedDevice 0
  | some (k, d) => (s.withScratch { s.seq.scratch with cand := some k, device := d }).goto .i4

/-- Step 7, test (R148): a mask of 0 skips the step. -/
def State.quadTest (s : State) : State :=
  s.goto (if quadEnableApplies s.seq.scratch.device then .i7r else .i8)

/-- Step 7r (R148): read the register that holds the bit; already set: no write. -/
def State.quadRead (s : State) : State :=
  let d := s.seq.scratch.device
  let t := s.readStatus (quadStatusCommand d)
  t.goto (if bitsSet t.seq.scratch.status d.quadEnableBitMask then .i8 else .i7a)

/-- Step 7b (R115, R149): `img <- [0x00, quad_enable_bit_mask]`. -/
def State.buildImage (s : State) : State :=
  (s.withScratch { s.seq.scratch with img0 := 0, img1 := s.seq.scratch.device.quadEnableBitMask }).goto .i7c

/-- Step 7c (R150): exactly one status write, by the descriptor's flags. -/
def State.quadEnableWrite (s : State) : State :=
  let x := s.seq.scratch
  let w := quadWrite x.device x.img0 x.img1
  (s.writeStatus w.1 w.2).goto .i8

/-- Step 11 (R154): record the device and its geometry. -/
def State.recordDevice (s : State) : State :=
  let x := s.seq.scratch
  { s with
    ctrl := { s.ctrl with
      activeDevice := x.cand
      pageSize := Config.pageSizeBytes
      totalSize := x.device.totalSize
      pageCount := pageCountOf x.device.totalSize } }

/-- `INITIALIZE` (R140). -/
def execInitialize (s : State) : Result :=
  match s.seq.phase with
  | .idle => .next (s.startAt .g)
  | .g => .next (if s.initialized then s.endFailed .stateError 0 else s.goto .i1)
  | .i1 => .next (s.beginBus.goto .i2)
  | .i2 => .next (s.readIdent.goto .i3)
  | .i3 => .next s.identify
  | .i4 => s.poll .rdsr1 s.config.wipMask .i4 .i5
  | .i5 => s.poll .rdsr2 s.config.susMask .i5 .i6a
  | .i6a => .next ((s.runCommand .rsten).goto .i6b)
  | .i6b => .next ((s.runCommand .rst).goto .i6c)
  | .i6c => .next ((s.delay Config.resetDelayUs).goto .i7)
  | .i7 => .next s.quadTest
  | .i7r => .next s.quadRead
  | .i7a => .next ((s.runCommand .wren).goto .i7b)
  | .i7b => .next s.buildImage
  | .i7c => .next s.quadEnableWrite
  | .i8 => .next (s.goto (if s.seq.scratch.device.hasSectorProtection then .i8a else .i9))
  | .i8a => .next ((s.runCommand .wren).goto .i8b)
  | .i8b => .next ((s.writeStatus .wrsr1 [0]).goto .i9)
  | .i9 => .next ((s.runCommand .wrdi).goto .i10)
  | .i10 => s.poll .rdsr1 s.config.wipMask .i10 .i11
  | .i11 => .next (s.recordDevice.goto .i12)
  | .i12 => .next (s.endOk 1)
  | _ => .refused .requestWhileBusy

end Sys2Proof.Machine
end

