-- ==== Sys2Proof/Machine/StatusAccess.lean ====
section
/-! DEFINITION. The meanings of the status reads and of write-enable (43_status_access.md R180 to R182). None is gated. -/

namespace Sys2Proof.Machine

/-- What the two status reads share: read one register and hand the byte over uninterpreted. -/
def statusRead (c : BusCommand) (s : State) : Result :=
  match s.seq.phase with
  | .idle => .next (s.startAt .s1)
  | .s1 => .next ((s.readStatus c).goto .s2)
  | .s2 => .next (s.endOk s.seq.scratch.status.zext)
  | _ => .refused .requestWhileBusy

/-- `READ_STATUS1` (R180). -/
def execReadStatus1 (s : State) : Result := statusRead .rdsr1 s

/-- `READ_STATUS2` (R181). -/
def execReadStatus2 (s : State) : Result := statusRead .rdsr2 s

/-- `WRITE_ENABLE` (R182). -/
def execWriteEnable (s : State) : Result :=
  match s.seq.phase with
  | .idle => .next (s.startAt .w1)
  | .w1 => .next ((s.runCommand .wren).goto .w2)
  | .w2 => .next (if s.seq.scratch.ok then s.endOk 1 else s.endFailed .transportFailure 0)
  | _ => .refused .requestWhileBusy

end Sys2Proof.Machine
end

