-- ==== Sys2Proof/Machine/Transfer.lean ====
section
/-! DEFINITION. The meanings of the bulk transfers and the typed reads (44_bulk_transfer.md R189 to R194). All five are gated and make exactly one primitive call. -/

namespace Sys2Proof.Machine

/-- `READ_BUFFER` (R190). -/
def execReadBuffer (s : State) : Result :=
  match s.seq.phase with
  | .idle => .next (s.startAt .g)
  | .g => .next (s.gate 0 .b1)
  | .b1 => .next ((s.memRead s.io.a0 s.io.a1).goto .b2)
  | .b2 =>
    .next (if s.seq.scratch.ok then s.endRead s.seq.scratch.bytes s.io.a1 else s.endFailed .transportFailure 0)
  | _ => .refused .requestWhileBusy

/-- `WRITE_BUFFER` (R191). -/
def execWriteBuffer (s : State) : Result :=
  match s.seq.phase with
  | .idle => .next (s.startAt .g)
  | .g => .next (s.gate 0 .b1)
  | .b1 => .next (s.memWrite.goto .b2)
  | .b2 => .next (if s.seq.scratch.ok then s.endOk s.io.a1 else s.endFailed .transportFailure 0)
  | _ => .refused .requestWhileBusy

/-- What the typed reads share (R126, R192 to R194): one `MemRead` of `n` bytes at `a0`, `value` of them on
success, `sentinel` on failure and when the gate is closed. -/
def typedRead (n : Word) (value : List Byte → Word) (sentinel : Word) (s : State) : Result :=
  match s.seq.phase with
  | .idle => .next (s.startAt .g)
  | .g => .next (s.gate sentinel .b1)
  | .b1 => .next ((s.memRead s.io.a0 n).goto .b2)
  | .b2 =>
    .next (if s.seq.scratch.ok then s.endOk (value s.seq.scratch.bytes) else s.endFailed .transportFailure sentinel)
  | _ => .refused .requestWhileBusy

/-- `READ8` (R192). -/
def execRead8 (s : State) : Result := typedRead 1 assemble8 (sentinel8 s.config) s

/-- `READ16` (R193). -/
def execRead16 (s : State) : Result := typedRead 2 assemble16 (sentinel16 s.config) s

/-- `READ32` (R194). -/
def execRead32 (s : State) : Result := typedRead 4 assemble32 (sentinel32 s.config) s

end Sys2Proof.Machine
end

