-- ==== Sys2Proof/Machine/Dispatch.lean ====
section
/-! DEFINITION. One arm per instruction: each calls its meaning. -/

namespace Sys2Proof.Machine

/-- One step of instruction `i`: for a host operation the step at `phase` (10_state.md R31), with `IDLE` taking the
request up (R21); for a bus command the sending of it (30_encoding.md R110). -/
def exec (i : Instr) (s : State) : Host.Outcome State Fault Refusal :=
  match i with
  | .opInitialize => Sys2Proof.Machine.execInitialize s
  | .opReadBuffer => Sys2Proof.Machine.execReadBuffer s
  | .opWriteBuffer => Sys2Proof.Machine.execWriteBuffer s
  | .opRead8 => Sys2Proof.Machine.execRead8 s
  | .opRead16 => Sys2Proof.Machine.execRead16 s
  | .opRead32 => Sys2Proof.Machine.execRead32 s
  | .opChipErase => Sys2Proof.Machine.execChipErase s
  | .opEraseSector => Sys2Proof.Machine.execEraseSector s
  | .opEraseBlock => Sys2Proof.Machine.execEraseBlock s
  | .opReadMfrDevId => Sys2Proof.Machine.execReadMfrDevId s
  | .opReadJedecId => Sys2Proof.Machine.execReadJedecId s
  | .opGetTotalSize => Sys2Proof.Machine.execGetTotalSize s
  | .opGetPageSize => Sys2Proof.Machine.execGetPageSize s
  | .opGetPageCount => Sys2Proof.Machine.execGetPageCount s
  | .opReadStatus1 => Sys2Proof.Machine.execReadStatus1 s
  | .opReadStatus2 => Sys2Proof.Machine.execReadStatus2 s
  | .opWriteEnable => Sys2Proof.Machine.execWriteEnable s
  | .cmdRdid => Sys2Proof.Machine.execCmdRdid s
  | .cmdRdsr1 => Sys2Proof.Machine.execCmdRdsr1 s
  | .cmdRdsr2 => Sys2Proof.Machine.execCmdRdsr2 s
  | .cmdWrsr1 payload => Sys2Proof.Machine.execCmdWrsr1 payload s
  | .cmdWrsr2 payload => Sys2Proof.Machine.execCmdWrsr2 payload s
  | .cmdWren => Sys2Proof.Machine.execCmdWren s
  | .cmdWrdi => Sys2Proof.Machine.execCmdWrdi s
  | .cmdRsten => Sys2Proof.Machine.execCmdRsten s
  | .cmdRst => Sys2Proof.Machine.execCmdRst s
  | .cmdCe => Sys2Proof.Machine.execCmdCe s

end Sys2Proof.Machine
end

