-- ==== Sys2Proof/Machine/Fetch.lean ====
section
/-! DEFINITION. What the next step does (10_state.md R21, R31; 30_encoding.md R100, R102, R120; 60_exceptions.md R236): the host's next move, the operation in flight, or nothing; and how an instruction is put where the next step takes it. -/

namespace Sys2Proof.Machine

/-- What the next step turns out to be. -/
inductive Fetched where
  /-- Run a step of this instruction from this state. -/
  | run (i : Instr) (s : State)
  /-- The step is complete without an instruction: an idle engine, a reset, an illegal request. -/
  | settled (s : State)
  /-- No step exists (log 14). -/
  | lost
  deriving DecidableEq, Repr

/-- The engine's own turn: the operation whose code `OP` holds, if busy; an idle engine issues nothing (R81(d)). -/
def engineTurn (s : State) : Fetched :=
  if s.io.busy then
    match decodeRequest s.io.op with
    | .ok i => .run i s
    | .error _ => .lost
  else .settled s

/-- A request met by an idle engine (R21, R102): the code selects the operation; a reserved code ends at once (R120). -/
def acceptRequest (r : Request) (s : State) : Fetched :=
  match decodeRequest r.op with
  | .ok i => .run i (s.hostWrite r)
  | .error _ => .settled (s.hostWrite r).illegalRequest

/-- The next step (log 4). A request waits until `busy = 0`; a reset does not wait. -/
def fetch (s : State) : Fetched :=
  match s.inputs with
  | [] => engineTurn s
  | .reset :: rest => .settled ({ s with inputs := rest }).engineReset
  | .wait :: rest => engineTurn { s with inputs := rest }
  | .request r :: rest => if s.io.busy then engineTurn s else acceptRequest r { s with inputs := rest }

/-- An idle engine whose host makes this request next; operand registers keep their values. -/
def State.withRequest (op : Byte) (s : State) : State :=
  { s with
    io := { s.io with busy := false }
    seq := { s.seq with phase := .idle }
    inputs := .request ⟨op, s.io.a0, s.io.a1, s.io.wbuf⟩ :: s.inputs }

/-- An engine in the middle of the operation `op`, standing at label `p`, its host silent for one step. -/
def State.standingAt (op : Byte) (p : Phase) (x : Scratch) (s : State) : State :=
  { s with
    io := { s.io with op := op, busy := true }
    seq := { s.seq with phase := p, scratch := x }
    inputs := .wait :: s.inputs
    polls := 0 }

/-- An engine about to send the bus command `i` (log 11): at a label that sends it, with the flags and the image
that give its payload. A host operation is requested instead. -/
def State.aboutToSend (i : Instr) (s : State) : State :=
  let x := s.seq.scratch
  let d := x.device
  match i with
  | .cmdRdid => s.standingAt 0x01 .i2 x
  | .cmdRdsr1 => s.standingAt 0x0F .s1 x
  | .cmdRdsr2 => s.standingAt 0x10 .s1 x
  | .cmdWrsr1 [b0] =>
    s.standingAt 0x01 .i7c
      { x with device := { d with writeStatusRegisterSplit := false, singleStatusByte := true }, img1 := b0 }
  | .cmdWrsr1 payload =>
    s.standingAt 0x01 .i7c
      { x with
        device := { d with writeStatusRegisterSplit := false, singleStatusByte := false }
        img0 := payload.getD 0 0
        img1 := payload.getD 1 0 }
  | .cmdWrsr2 payload =>
    s.standingAt 0x01 .i7c { x with device := { d with writeStatusRegisterSplit := true }, img1 := payload.getD 0 0 }
  | .cmdWren => s.standingAt 0x11 .w1 x
  | .cmdWrdi => s.standingAt 0x01 .i9 x
  | .cmdRsten => s.standingAt 0x01 .i6a x
  | .cmdRst => s.standingAt 0x01 .i6b x
  | .cmdCe => s.standingAt 0x07 .c2 x
  | .opInitialize | .opReadBuffer | .opWriteBuffer | .opRead8 | .opRead16 | .opRead32 => s.withRequest ((encode s.config i).getD 0 0)
  | .opChipErase | .opEraseSector | .opEraseBlock | .opReadMfrDevId | .opReadJedecId => s.withRequest ((encode s.config i).getD 0 0)
  | .opGetTotalSize | .opGetPageSize | .opGetPageCount => s.withRequest ((encode s.config i).getD 0 0)
  | .opReadStatus1 | .opReadStatus2 | .opWriteEnable => s.withRequest ((encode s.config i).getD 0 0)

/-- The byte of a table word placed where the next step takes it: a host code (or a byte of neither space) as the
host's next request, a byte that only the bus space has as the next command sent (log 10, 11). -/
def State.placeByte (b : Byte) (s : State) : State :=
  match decodeRequest b with
  | .ok _ => s.withRequest b
  | .error _ =>
    match decodeBusWord s.config b with
    | .ok i => s.aboutToSend i
    | .error _ => s.withRequest b

end Sys2Proof.Machine
end

