-- ==== Sys2Proof/Machine/Step.lean ====
section
/-! DEFINITION. One step of the machine (10_state.md R31), and how a table word is put where the next step takes it. -/

namespace Sys2Proof.Machine

/-- One step: whatever `fetch` finds. -/
def step (s : State) : Host.Outcome State Fault Refusal :=
  match fetch s with
  | .run i t => exec i t
  | .settled t => .next t
  | .lost => .fault .lostOperation

/-- The instruction of a table word, placed so that the very next step runs it. The machine fetches no program
(R86): a request comes from the host, and a bus command is sent by an operation at one of its labels (log 4, 11). -/
def State.withFetchWord (s : State) (_nbits w : Nat) : State := s.placeByte (BitVec.ofNat 8 w)

end Sys2Proof.Machine
end

