-- ==== Sys2Proof/Safety.lean ====
section
/-! DEFINITION. What the claims speak of: runs of one operation, the labels of each operation (R30), the commands sent at each label (R110), a consistent sequencer (R21, R30), the order of the trace (R157, R158), the shapes of bus events (R121), and the statuses an operation can end with (R217). -/

namespace Sys2Proof.Machine

/-- `n` steps of instruction `i`, one after another. -/
def execTimes (i : Instr) : Nat → State → Result
  | 0, s => .next s
  | n + 1, s =>
    match exec i s with
    | .next t => execTimes i n t
    | .fault r => .fault r
    | .refused r => .refused r

/-- `n` steps of the machine. -/
def stepTimes : Nat → State → Result
  | 0, s => .next s
  | n + 1, s =>
    match step s with
    | .next t => stepTimes n t
    | .fault r => .fault r
    | .refused r => .refused r

/-- The labels at which an operation can stand (R30 and the operation rules). -/
def labelsOf : Instr → List Phase
  | .opInitialize =>
    [.g, .i1, .i2, .i3, .i4, .i5, .i6a, .i6b, .i6c, .i7, .i7r, .i7a, .i7b, .i7c, .i8, .i8a, .i8b, .i9, .i10, .i11, .i12]
  | .opReadBuffer | .opWriteBuffer | .opRead8 | .opRead16 | .opRead32 => [.g, .b1, .b2]
  | .opChipErase => [.g, .c1, .c2, .c3, .c4]
  | .opEraseSector => [.g, .e1, .e2, .e3]
  | .opEraseBlock => [.g, .k0, .k1, .k2, .k3]
  | .opReadMfrDevId => [.m1, .m2]
  | .opReadJedecId => [.j1, .j2]
  | .opGetTotalSize | .opGetPageSize | .opGetPageCount => [.acc]
  | .opReadStatus1 | .opReadStatus2 => [.s1, .s2]
  | .opWriteEnable => [.w1, .w2]
  | .cmdRdid | .cmdRdsr1 | .cmdRdsr2 | .cmdWrsr1 _ | .cmdWrsr2 _ => []
  | .cmdWren | .cmdWrdi | .cmdRsten | .cmdRst | .cmdCe => []

/-- The labels an operation reaches with parameters `c`: `ERASE_BLOCK` has those of its mode (R202). -/
def labelsIn (c : Config) (i : Instr) : List Phase :=
  if i = .opEraseBlock then
    match c.eraseBlockMode with
    | .notImplemented => [.g, .k0]
    | .sourceBracket => [.g, .k1, .k2, .k3]
  else labelsOf i

/-- The operation whose code `OP` holds. -/
def State.operation (s : State) : Option Instr :=
  match decodeRequest s.io.op with
  | .ok i => some i
  | .error _ => none

/-- `phase = IDLE` exactly when `busy = 0` (R30); a busy engine stands at a label that the
operation in flight reaches. -/
abbrev State.Consistent (s : State) : Prop :=
  if s.io.busy then ∃ i, s.operation = some i ∧ s.seq.phase ∈ labelsIn s.config i
  else s.seq.phase = .idle

/-- The bus command that operation `i` sends at a label, with its payload (R83, R84, R110, R140, R150). -/
def commandSentAt (i : Instr) (s : State) : Option Instr :=
  let x := s.seq.scratch
  match i, s.seq.phase with
  | .opInitialize, .i2 => some .cmdRdid
  | .opInitialize, .i4 => some .cmdRdsr1
  | .opInitialize, .i5 => some .cmdRdsr2
  | .opInitialize, .i6a => some .cmdRsten
  | .opInitialize, .i6b => some .cmdRst
  | .opInitialize, .i7r => some (if x.device.singleStatusByte then .cmdRdsr1 else .cmdRdsr2)
  | .opInitialize, .i7a => some .cmdWren
  | .opInitialize, .i7c =>
    some (if x.device.writeStatusRegisterSplit then .cmdWrsr2 [x.img1]
      else if x.device.singleStatusByte then .cmdWrsr1 [x.img1]
      else .cmdWrsr1 [x.img0, x.img1])
  | .opInitialize, .i8a => some .cmdWren
  | .opInitialize, .i8b => some (.cmdWrsr1 [0])
  | .opInitialize, .i9 => some .cmdWrdi
  | .opInitialize, .i10 => some .cmdRdsr1
  | .opChipErase, .c1 => some .cmdWren
  | .opChipErase, .c2 => some .cmdCe
  | .opChipErase, .c3 => some .cmdRdsr1
  | .opEraseBlock, .k1 => some .cmdWren
  | .opEraseBlock, .k2 => some .cmdRdsr1
  | .opReadMfrDevId, .m1 => some .cmdRdid
  | .opReadJedecId, .j1 => some .cmdRdid
  | .opReadStatus1, .s1 => some .cmdRdsr1
  | .opReadStatus2, .s1 => some .cmdRdsr2
  | .opWriteEnable, .w1 => some .cmdWren
  | _, _ => none

/-- R121, R110: an event whose command byte is one of the ten, sent by the primitive of its format and with the
payload or response length of R110. -/
def Event.Shaped (c : Config) : Event → Prop
  | .readCmd op n response => response.length = n ∧ ((op = c.cmdRdid ∧ n = 3) ∨ ((op = c.cmdRdsr1 ∨ op = c.cmdRdsr2) ∧ n = 1))
  | .writeCmd op payload =>
    (op = c.cmdWrsr1 ∧ (payload.length = 1 ∨ payload.length = 2)) ∨ (op = c.cmdWrsr2 ∧ payload.length = 1)
  | .runCmd op _ => op = c.cmdWren ∨ op = c.cmdWrdi ∨ op = c.cmdRsten ∨ op = c.cmdRst ∨ op = c.cmdCe
  | .readMem _ n _ data => data.length = n.toNat
  | .delay us => us = Config.resetDelayUs
  | .begin | .writeMem _ _ _ | .eraseSector _ _ => True

/-- What must stand immediately before an event: a status write and the chip erase are preceded by write-enable
(R84, R157(d)), the chip reset by its enable (R146), the delay by the chip reset (R147), and the reset enable by a
read of status register 2 with write-suspended clear (R158). -/
def Event.PrecededBy (c : Config) (before : Option Event) : Event → Prop
  | .writeCmd _ _ => ∃ ok, before = some (.runCmd c.cmdWren ok)
  | .runCmd op _ =>
    (op = c.cmdCe → ∃ ok, before = some (.runCmd c.cmdWren ok)) ∧
    (op = c.cmdRst → ∃ ok, before = some (.runCmd c.cmdRsten ok)) ∧
    (op = c.cmdRsten → ∃ status, before = some (.readCmd c.cmdRdsr2 1 [status]) ∧ bitsSet status c.susMask = false)
  | .delay _ => ∃ ok, before = some (.runCmd c.cmdRst ok)
  | .begin | .readCmd _ _ _ | .readMem _ _ _ _ | .writeMem _ _ _ | .eraseSector _ _ => True

/-- Every event of a trace stands where `PrecededBy` allows. -/
def TraceOrdered (c : Config) (trace : List Event) : Prop :=
  ∀ earlier e later, trace = earlier ++ e :: later → Event.PrecededBy c earlier.getLast? e

/-- What the last event is when the sequencer stands at a label whose event depends on it. -/
def PhasePrecondition (c : Config) (i : Instr) (p : Phase) (last : Option Event) : Prop :=
  match i, p with
  | .opInitialize, .i6a =>
    ∃ status, last = some (.readCmd c.cmdRdsr2 1 [status]) ∧ bitsSet status c.susMask = false
  | .opInitialize, .i6b => ∃ ok, last = some (.runCmd c.cmdRsten ok)
  | .opInitialize, .i6c => ∃ ok, last = some (.runCmd c.cmdRst ok)
  | .opInitialize, .i7b => ∃ ok, last = some (.runCmd c.cmdWren ok)
  | .opInitialize, .i7c => ∃ ok, last = some (.runCmd c.cmdWren ok)
  | .opInitialize, .i8b => ∃ ok, last = some (.runCmd c.cmdWren ok)
  | .opChipErase, .c2 => ∃ ok, last = some (.runCmd c.cmdWren ok)
  | _, _ => True

/-- The trace is ordered and the sequencer stands where its next event will be too. -/
def State.Ordered (s : State) : Prop :=
  s.config.DistinctCommands ∧ s.Consistent ∧ TraceOrdered s.config s.trace ∧
    ∀ i, s.io.busy = true → s.operation = some i →
      PhasePrecondition s.config i s.seq.phase s.trace.getLast?

/-- R217: the status codes an operation can end with. -/
def statusesOf (c : Config) : Instr → List Word
  | .opInitialize => [0, 1, 4]
  | .opReadBuffer | .opWriteBuffer | .opRead8 | .opRead16 | .opRead32 => [0, 2, 4]
  | .opChipErase => [0, 4]
  | .opEraseSector =>
    match c.eraseSectorResult with
    | .alwaysOk => [0, 4]
    | .propagate => [0, 2, 4]
  | .opEraseBlock =>
    match c.eraseBlockMode with
    | .notImplemented => [3, 4]
    | .sourceBracket => [0, 4]
  | .opReadMfrDevId | .opReadJedecId | .opReadStatus1 | .opReadStatus2 => [0]
  | .opGetTotalSize | .opGetPageSize | .opGetPageCount => [0]
  | .opWriteEnable => [0, 2]
  | .cmdRdid | .cmdRdsr1 | .cmdRdsr2 | .cmdWrsr1 _ | .cmdWrsr2 _ => []
  | .cmdWren | .cmdWrdi | .cmdRsten | .cmdRst | .cmdCe => []

/-- R231: the operations that need state INITIALIZED. -/
def isGated : Instr → Bool
  | .opReadBuffer | .opWriteBuffer | .opRead8 | .opRead16 | .opRead32 => true
  | .opChipErase | .opEraseSector | .opEraseBlock => true
  | .opInitialize | .opReadMfrDevId | .opReadJedecId | .opGetTotalSize | .opGetPageSize | .opGetPageCount => false
  | .opReadStatus1 | .opReadStatus2 | .opWriteEnable => false
  | .cmdRdid | .cmdRdsr1 | .cmdRdsr2 | .cmdWrsr1 _ | .cmdWrsr2 _ => false
  | .cmdWren | .cmdWrdi | .cmdRsten | .cmdRst | .cmdCe => false

/-- The value `r0` takes when an operation fails (R189, R211): the sentinel for a typed read, else 0. -/
def failureValueOf (c : Config) : Instr → Word
  | .opRead8 => sentinel8 c
  | .opRead16 => sentinel16 c
  | .opRead32 => sentinel32 c
  | .opInitialize | .opReadBuffer | .opWriteBuffer | .opChipErase | .opEraseSector | .opEraseBlock => 0
  | .opReadMfrDevId | .opReadJedecId | .opGetTotalSize | .opGetPageSize | .opGetPageCount => 0
  | .opReadStatus1 | .opReadStatus2 | .opWriteEnable => 0
  | .cmdRdid | .cmdRdsr1 | .cmdRdsr2 | .cmdWrsr1 _ | .cmdWrsr2 _ => 0
  | .cmdWren | .cmdWrdi | .cmdRsten | .cmdRst | .cmdCe => 0

/-- The scratch that a later step of the operation can still read, at each label; the rest is blanked (R32: scratch
is "live only inside one operation"). -/
def liveScratch (i : Option Instr) (p : Phase) (x : Scratch) : Scratch :=
  match i, p with
  | some .opInitialize, .i3 => { Scratch.blank with ident := x.ident }
  | some .opInitialize, .i7c => { Scratch.blank with cand := x.cand, device := x.device, img0 := x.img0, img1 := x.img1 }
  | some .opInitialize, .g => Scratch.blank
  | some .opInitialize, .i1 => Scratch.blank
  | some .opInitialize, .i2 => Scratch.blank
  | some .opInitialize, .i12 => Scratch.blank
  | some .opInitialize, _ => { Scratch.blank with cand := x.cand, device := x.device }
  | some .opReadMfrDevId, .m2 => { Scratch.blank with ident := x.ident }
  | some .opReadJedecId, .j2 => { Scratch.blank with ident := x.ident }
  | some .opReadStatus1, .s2 => { Scratch.blank with status := x.status }
  | some .opReadStatus2, .s2 => { Scratch.blank with status := x.status }
  | some .opWriteEnable, .w2 => { Scratch.blank with ok := x.ok }
  | some .opReadBuffer, .b2 => { Scratch.blank with ok := x.ok, bytes := x.bytes }
  | some .opRead8, .b2 => { Scratch.blank with ok := x.ok, bytes := x.bytes }
  | some .opRead16, .b2 => { Scratch.blank with ok := x.ok, bytes := x.bytes }
  | some .opRead32, .b2 => { Scratch.blank with ok := x.ok, bytes := x.bytes }
  | some .opWriteBuffer, .b2 => { Scratch.blank with ok := x.ok }
  | some .opEraseSector, .e2 => { Scratch.blank with addr := x.addr }
  | some .opEraseSector, .e3 => { Scratch.blank with ok := x.ok }
  | _, _ => Scratch.blank

/-- The state with its dead scratch blanked; an idle engine's scratch is all dead. -/
def State.live (s : State) : State :=
  s.withScratch (if s.io.busy then liveScratch s.operation s.seq.phase s.seq.scratch else Scratch.blank)

/-- FRAME: what an operation other than `INITIALIZE` leaves unchanged: the parameters, every controller register,
the host's moves, `bus_up`, and the registers the host writes (R22: "The engine never writes `a0` or `a1`"). -/
abbrev State.Kept (s t : State) : Prop :=
  t.config = s.config ∧ t.ctrl = s.ctrl ∧ t.inputs = s.inputs ∧ t.seq.busUp = s.seq.busUp ∧
    t.io.op = s.io.op ∧ t.io.a0 = s.io.a0 ∧ t.io.a1 = s.io.a1 ∧ t.io.wbuf = s.io.wbuf

/-- An operation has ended (R15): `busy = 0`, `phase = IDLE`, and these two results. -/
abbrev State.EndedWith (t : State) (st r0 : Word) : Prop :=
  t.io.busy = false ∧ t.seq.phase = .idle ∧ t.io.st = st ∧ t.io.r0 = r0

/-- A request turned away at the lifecycle gate `G` (R231, R232): one step starts the operation, the next ends it with
`StateError` and its failure value, no event, nothing else changed. -/
abbrev State.TurnedAway (i : Instr) (s : State) : Prop :=
  ∃ s1 t, exec i s = .next s1 ∧ exec i s1 = .next t ∧ t.EndedWith 4 (failureValueOf s.config i) ∧
    s.Kept t ∧ t.trace = s.trace ∧ t.transport = s.transport

/-- The byte the reference chip's array holds at an address; `none` past its end, or where the array is not known. -/
def State.arrayByte (s : State) (addr : Nat) : Option Byte :=
  match s.transport with
  | .reference chip => if addr < chip.size then some (chip.mem.read addr) else none
  | .oracle => none
  | .scripted _ => none

/-- Every byte of the array reads as before. -/
abbrev State.ArrayKept (s t : State) : Prop := ∀ addr, t.arrayByte addr = s.arrayByte addr

/-- 60_exceptions.md R240, `MemRead`: on the reference chip, with the bus up, the answer to a read of `n` bytes at `addr`
is `true` and the array's bytes when they lie inside it, and `false` otherwise. -/
def State.ChipAnswersRead (s : State) (addr n : Word) (ok : Bool) (bytes : List Byte) : Prop :=
  ∀ chip, s.transport = .reference chip → s.seq.busUp = true →
    (addr.toNat + n.toNat ≤ chip.size → ok = true ∧
      ∀ (i : Nat) (h : i < bytes.length), bytes[i] = chip.mem.read (addr.toNat + i)) ∧
    (chip.size < addr.toNat + n.toNat → ok = false)

/-- The operand registers replaced (R22, R100). -/
def State.withOperands (a0 a1 : Word) (wbuf : List Byte) (s : State) : State :=
  { s with io := { s.io with a0 := a0, a1 := a1, wbuf := wbuf } }

/-- R83: the places of the busy-poll: which command, which mask, and where it goes on. -/
def pollAt (c : Config) (i : Instr) (p : Phase) : Option (BusCommand × Byte × Phase) :=
  match i, p with
  | .opInitialize, .i4 => some (.rdsr1, c.wipMask, .i5)
  | .opInitialize, .i5 => some (.rdsr2, c.susMask, .i6a)
  | .opInitialize, .i10 => some (.rdsr1, c.wipMask, .i11)
  | .opChipErase, .c3 => some (.rdsr1, c.wipMask, .c4)
  | .opEraseBlock, .k2 => some (.rdsr1, c.wipMask, .k3)
  | _, _ => none

/-- A script that answers a run of status reads with these bytes. -/
def statusAnswers (bytes : List Byte) : List Answer := bytes.map fun b => ⟨true, [b]⟩

/-- The events those reads leave. -/
def statusEvents (op : Byte) (bytes : List Byte) : List Event := bytes.map fun b => .readCmd op 1 [b]

/-- What the environment chooses in one successful `INITIALIZE`: the identification, the status bytes of the three
busy-waits (the busy ones, then the first clear one), the status byte of step 7r, and the five discarded booleans. -/
structure InitRun where
  ident : Ident
  busy4 : List Byte
  clear4 : Byte
  busy5 : List Byte
  clear5 : Byte
  okRsten : Bool
  okRst : Bool
  quadStatus : Byte
  okQuadWren : Bool
  okProtWren : Bool
  okWrdi : Bool
  busy10 : List Byte
  clear10 : Byte
  deriving DecidableEq, Repr

/-- Each busy-wait sees busy bytes first and then a clear one (R183). -/
abbrev InitRun.Clears (c : Config) (r : InitRun) : Prop :=
  (∀ b ∈ r.busy4, bitsSet b c.wipMask = true) ∧ bitsSet r.clear4 c.wipMask = false ∧
  (∀ b ∈ r.busy5, bitsSet b c.susMask = true) ∧ bitsSet r.clear5 c.susMask = false ∧
  (∀ b ∈ r.busy10, bitsSet b c.wipMask = true) ∧ bitsSet r.clear10 c.wipMask = false

/-- R148: step 7 writes the bit of this part, with this status read. -/
def InitRun.writesQuad (r : InitRun) (d : Descriptor) : Bool :=
  d.quadEnableBitMask != 0 && !bitsSet r.quadStatus d.quadEnableBitMask

/-- The answers of the transport in order. -/
def InitRun.answers (r : InitRun) (d : Descriptor) : List Answer :=
  [⟨true, [r.ident.manufacturer, r.ident.memoryType, r.ident.capacity]⟩]
    ++ statusAnswers (r.busy4 ++ [r.clear4]) ++ statusAnswers (r.busy5 ++ [r.clear5])
    ++ [⟨r.okRsten, []⟩, ⟨r.okRst, []⟩]
    ++ (if d.quadEnableBitMask = 0 then [] else [⟨true, [r.quadStatus]⟩])
    ++ (if r.writesQuad d then [⟨r.okQuadWren, []⟩] else [])
    ++ (if d.hasSectorProtection then [⟨r.okProtWren, []⟩] else [])
    ++ [⟨r.okWrdi, []⟩] ++ statusAnswers (r.busy10 ++ [r.clear10])

/-- R150: the one write of step 7c. -/
def quadEnableEvent (c : Config) (d : Descriptor) : Event :=
  if d.writeStatusRegisterSplit then .writeCmd c.cmdWrsr2 [d.quadEnableBitMask]
  else if d.singleStatusByte then .writeCmd c.cmdWrsr1 [d.quadEnableBitMask]
  else .writeCmd c.cmdWrsr1 [0x00, d.quadEnableBitMask]

/-- The events of the run, as R140 lists them. -/
def InitRun.events (r : InitRun) (c : Config) (d : Descriptor) : List Event :=
  [.begin, .readCmd c.cmdRdid 3 [r.ident.manufacturer, r.ident.memoryType, r.ident.capacity]]
    ++ statusEvents c.cmdRdsr1 (r.busy4 ++ [r.clear4]) ++ statusEvents c.cmdRdsr2 (r.busy5 ++ [r.clear5])
    ++ [.runCmd c.cmdRsten r.okRsten, .runCmd c.cmdRst r.okRst, .delay 30]
    ++ (if d.quadEnableBitMask = 0 then []
        else [.readCmd (if d.singleStatusByte then c.cmdRdsr1 else c.cmdRdsr2) 1 [r.quadStatus]])
    ++ (if r.writesQuad d then [.runCmd c.cmdWren r.okQuadWren, quadEnableEvent c d] else [])
    ++ (if d.hasSectorProtection then [.runCmd c.cmdWren r.okProtWren, .writeCmd c.cmdWrsr1 [0x00]] else [])
    ++ [.runCmd c.cmdWrdi r.okWrdi] ++ statusEvents c.cmdRdsr1 (r.busy10 ++ [r.clear10])

/-- The labels of `INITIALIZE` from step 4 to step 11: the part is known and `d` is bound. -/
def identifiedLabels : List Phase :=
  [.i4, .i5, .i6a, .i6b, .i6c, .i7, .i7r, .i7a, .i7b, .i7c, .i8, .i8a, .i8b, .i9, .i10, .i11]

/-- The controller registers say what they should (R24, R25, R143, R154): with an active device its row's geometry,
without one `GEOM_RESET`; and an `INITIALIZE` past its gate runs without an active device, with the row it has found. -/
def State.Described (s : State) : Prop :=
  s.Consistent ∧
  (∀ k, s.ctrl.activeDevice = some k → ∃ d, s.config.catalog[k]? = some d ∧
    s.ctrl.totalSize = d.totalSize ∧ s.ctrl.pageSize = 256 ∧ s.ctrl.pageCount = d.totalSize / 256) ∧
  (s.ctrl.activeDevice = none → s.ctrl.totalSize = s.config.geomReset.totalSize ∧
    s.ctrl.pageSize = s.config.geomReset.pageSize ∧ s.ctrl.pageCount = s.config.geomReset.pageCount) ∧
  (s.io.busy = true → s.operation = some .opInitialize → s.seq.phase ≠ .g → s.seq.phase ≠ .i12 →
    s.ctrl.activeDevice = none) ∧
  (s.io.busy = true → s.operation = some .opInitialize → s.seq.phase ∈ identifiedLabels →
    ∃ k, s.seq.scratch.cand = some k ∧ s.config.catalog[k]? = some s.seq.scratch.device)

end Sys2Proof.Machine
end

