-- ==== Sys2Proof/Certificates/Slice0/Obligations.lean ====
section
/-! DEFINITION. The statements for the provers. Each docstring names the rule or the section it formalises. -/

open Sys2Proof Sys2Proof.Machine

/-! ### Encodings -/

/-- 30_encoding.md R101, R110: words written out from the two tables, with the default command bytes. -/
def Obligations.TableWordsDecode : Prop :=
  decode Config.standard .host [0x01] = .ok .opInitialize ∧
  decode Config.standard .host [0x02] = .ok .opReadBuffer ∧
  decode Config.standard .host [0x06] = .ok .opRead32 ∧
  decode Config.standard .host [0x08] = .ok .opEraseSector ∧
  decode Config.standard .host [0x0B] = .ok .opReadJedecId ∧
  decode Config.standard .host [0x0E] = .ok .opGetPageCount ∧
  decode Config.standard .host [0x11] = .ok .opWriteEnable ∧
  decode Config.standard .host [0x12] = .error (.reservedOperation 0x12) ∧
  decode Config.standard .bus [0x9F] = .ok .cmdRdid ∧
  decode Config.standard .bus [0x05] = .ok .cmdRdsr1 ∧
  decode Config.standard .bus [0x01, 0x02] = .ok (.cmdWrsr1 [0x02]) ∧
  decode Config.standard .bus [0x01, 0x00, 0x02] = .ok (.cmdWrsr1 [0x00, 0x02]) ∧
  decode Config.standard .bus [0x31, 0x02] = .ok (.cmdWrsr2 [0x02]) ∧
  decode Config.standard .bus [0xC7] = .ok .cmdCe ∧
  decode Config.standard .bus [0x02] = .error (.unknownCommand 0x02)

/-- 30_encoding.md sections 1 and 2: with distinct command bytes (R8), decoding what the encoder writes gives every
well-formed instruction back, with every payload. -/
def Obligations.DecodeOfEncode : Prop :=
  ∀ (c : Config) (i : Instr), c.DistinctCommands → i.wf = true → decode c i.space (encode c i) = .ok i

/-- 30_encoding.md sections 1, 2 and 4: what decodes is well formed, belongs to the space it was read in, and is
encoded by exactly those bytes, so each byte sequence of a space has one meaning. -/
def Obligations.EncodeOfDecode : Prop :=
  ∀ (c : Config) (sp : Space) (bytes : List Byte) (i : Instr),
    decode c sp bytes = .ok i → encode c i = bytes ∧ i.space = sp ∧ i.wf = true

/-! ### One step of the machine -/

/-- 10_state.md R21, R31 and the model's input list (log 4): a busy engine runs the operation whose code `OP` holds,
whether or not the host waits or has a request standing; an idle engine that meets a request with an operation's code
runs that operation with the host's registers written. -/
def Obligations.StepRunsDecodedInstruction : Prop :=
  (∀ (s : State) (i : Instr), s.inputs = [] → s.io.busy = true → decodeRequest s.io.op = .ok i →
    step s = exec i s) ∧
  (∀ (s : State) (i : Instr) (rest : List HostMove), s.inputs = .wait :: rest → s.io.busy = true →
    decodeRequest s.io.op = .ok i → step s = exec i { s with inputs := rest }) ∧
  (∀ (s : State) (i : Instr) (r : Request) (rest : List HostMove), s.inputs = .request r :: rest →
    s.io.busy = true → decodeRequest s.io.op = .ok i → step s = exec i s) ∧
  (∀ (s : State) (i : Instr) (r : Request) (rest : List HostMove), s.inputs = .request r :: rest →
    s.io.busy = false → decodeRequest r.op = .ok i →
    step s = exec i
      { s with
        inputs := rest
        io := { s.io with op := r.op, a0 := r.a0, a1 := r.a1, wbuf := r.wbuf } })

/-- 10_state.md R21: a request with an operation's code, met by an idle engine, sets `busy` and stands the sequencer
at the first label of that operation, changes no other register and issues no event (a step of its own: log 5). -/
def Obligations.RequestStartsTheOperation : Prop :=
  ∀ (s : State) (i : Instr) (r : Request) (rest : List HostMove), s.inputs = .request r :: rest →
    s.io.busy = false → s.seq.phase = .idle → decodeRequest r.op = .ok i →
    ∃ p, (labelsOf i).head? = some p ∧
      step s = .next
        { s with
          inputs := rest
          io := { s.io with op := r.op, a0 := r.a0, a1 := r.a1, wbuf := r.wbuf, busy := true }
          seq := { s.seq with phase := p } }

/-- 30_encoding.md R120, 60_exceptions.md R216: a reserved code starts nothing: `st = 5`, `r0 = 0`, no event, no other
state change (the host's own writes apart). The reserved codes are exactly 0x00 and 0x12 to 0xFF. -/
def Obligations.ReservedCodeIsIllegal : Prop :=
  (∀ b : Byte, (∃ e, decodeRequest b = .error e) ↔ (b = 0x00 ∨ 0x12 ≤ b.toNat)) ∧
  (∀ (s : State) (r : Request) (rest : List HostMove), s.inputs = .request r :: rest → s.io.busy = false →
    s.seq.phase = .idle → (r.op = 0x00 ∨ 0x12 ≤ r.op.toNat) →
    step s = .next
      { s with
        inputs := rest
        io := { s.io with op := r.op, a0 := r.a0, a1 := r.a1, wbuf := r.wbuf, st := 5, r0 := 0 } })

/-- 20_memory.md R81(d): an idle engine issues no event. That its step, with no host move or with a wait (log 4), is
still a step and leaves every register as it was is the model's reading (DEDUCED, log 18). -/
def Obligations.IdleEngineIssuesNothing : Prop :=
  ∀ s : State, s.io.busy = false →
    (s.inputs = [] → step s = .next s) ∧
    (∀ rest, s.inputs = .wait :: rest → step s = .next { s with inputs := rest })

/-- 20_memory.md R81(c), 60_exceptions.md R236: while the engine is busy a request stays with the host. -/
def Obligations.RequestWaitsWhileBusy : Prop :=
  ∀ (s t : State) (r : Request) (rest : List HostMove), s.inputs = .request r :: rest → s.io.busy = true →
    step s = .next t → t.inputs = s.inputs ∧ t.io.op = s.io.op ∧ t.io.a0 = s.io.a0 ∧ t.io.a1 = s.io.a1 ∧
      t.io.wbuf = s.io.wbuf

/-- 70_reset_and_hazards.md R250 to R252: a reset takes effect at once, busy or not: the engine's registers take their
reset values, no event is issued, no completion is written, and the transport with its chip and what was already sent
stay. (`OP` and scratch at reset are the model's choice, log 6, and are not stated here.) -/
def Obligations.ResetTakesEffectAtOnce : Prop :=
  ∀ (s : State) (rest : List HostMove), s.inputs = .reset :: rest →
    ∃ t, step s = .next t ∧
      t.ctrl = { activeDevice := none, totalSize := s.config.geomReset.totalSize,
                 pageSize := s.config.geomReset.pageSize, pageCount := s.config.geomReset.pageCount,
                 currentAddress := 0 } ∧
      t.seq.busUp = false ∧ t.seq.phase = .idle ∧ t.io.busy = false ∧
      t.io.a0 = 0 ∧ t.io.a1 = 0 ∧ t.io.r0 = 0 ∧ t.io.st = 0 ∧ t.io.wbuf = [] ∧ t.io.rbuf = [] ∧
      t.trace = s.trace ∧ t.transport = s.transport ∧ t.config = s.config ∧ t.inputs = rest

/-- 10_state.md R45: the values the spec gives for reset, for every configuration; `State.reset` is the one with every
parameter at its default (log 20). -/
def Obligations.ResetLeavesTheSpecsValues : Prop :=
  ∀ c : Config,
    (State.resetWith c).ctrl.activeDevice = none ∧
    (State.resetWith c).ctrl.totalSize = c.geomReset.totalSize ∧
    (State.resetWith c).ctrl.pageSize = c.geomReset.pageSize ∧
    (State.resetWith c).ctrl.pageCount = c.geomReset.pageCount ∧
    (State.resetWith c).ctrl.currentAddress = 0 ∧
    (State.resetWith c).seq.busUp = false ∧ (State.resetWith c).seq.phase = .idle ∧
    (State.resetWith c).io.busy = false ∧ (State.resetWith c).io.a0 = 0 ∧ (State.resetWith c).io.a1 = 0 ∧
    (State.resetWith c).io.r0 = 0 ∧ (State.resetWith c).io.st = 0 ∧ (State.resetWith c).io.wbuf = [] ∧
    (State.resetWith c).io.rbuf = [] ∧
    State.reset = State.resetWith Config.standard

/-! ### The whole machine -/

/-- 10_state.md R21, R30: every step keeps the sequencer consistent: `phase = IDLE` exactly when `busy = 0`, and a busy
engine stands at a label that the operation whose code `OP` holds reaches. -/
def Obligations.SequencerStaysConsistent : Prop :=
  ∀ s t : State, s.Consistent → step s = .next t → t.Consistent

/-- 10_state.md R45: the invariants hold at reset, for every configuration (the order of the trace: with distinct
command bytes, R8). -/
def Obligations.InvariantsHoldAtReset : Prop :=
  ∀ c : Config, (State.resetWith c).Consistent ∧ (State.resetWith c).Described ∧
    (c.DistinctCommands → (State.resetWith c).Ordered) ∧
    (∀ e ∈ (State.resetWith c).trace, e.Shaped c) ∧ (State.resetWith c).transport.memoryWf

/-- 60_exceptions.md sections 1 and 2: no operation throws and nothing traps: with the normative `POLL_LIMIT` (none), a
consistent engine always has a next state. -/
def Obligations.ConsistentEngineNeverStops : Prop :=
  ∀ s : State, s.Consistent → s.config.pollLimit = none → ∃ t, step s = .next t

/-- 41_initialize.md section 3, 20_memory.md section 11: in every trace each status write and each chip erase stands
immediately behind a write-enable, the chip reset behind its enable, the delay behind the chip reset, and the reset
enable behind a read of status register 2 with write-suspended clear; every step keeps that. -/
def Obligations.TraceStaysOrdered : Prop :=
  ∀ s t : State, s.Ordered → step s = .next t → t.Ordered

/-- 30_encoding.md R121: the engine never sends a command byte outside the ten, nor a payload or response shape outside
R110; every step keeps that of the whole trace. -/
def Obligations.EventsStayShaped : Prop :=
  ∀ s t : State, (∀ e ∈ s.trace, e.Shaped s.config) → step s = .next t → ∀ e ∈ t.trace, e.Shaped t.config

/-- 10_state.md R31, 20_memory.md R70, R81: a step records at most one event, at the end of the trace, and removes
none. -/
def Obligations.OneEventPerStep : Prop :=
  ∀ s t : State, step s = .next t → t.trace = s.trace ∨ ∃ e, t.trace = s.trace ++ [e]

/-- 10_state.md R24, R25, 41_initialize.md R143, R154: every step keeps the controller registers truthful: an active
device is a row of the catalog and the geometry is that row's; without one the geometry is `GEOM_RESET`. -/
def Obligations.GeometryDescribesActiveDevice : Prop :=
  ∀ s t : State, s.Described → step s = .next t → t.Described

/-- 10_state.md R24, R25, 60_exceptions.md R230: once a device is active, no step but a reset changes any controller
register: the device is never returned to `None` and the geometry is fixed. -/
def Obligations.ControllerFixedOnceInitialized : Prop :=
  ∀ s t : State, s.Described → s.initialized = true → step s = .next t →
    t.ctrl = s.ctrl ∨ (∃ rest, s.inputs = .reset :: rest)

/-- 10_state.md R25, R26, R28, R35: no step changes the parameters or the catalog; only a reset changes
`current_address`; `bus_up` changes only at step 1 of `INITIALIZE` and at reset. -/
def Obligations.ParametersCursorAndBusFlag : Prop :=
  ∀ s t : State, step s = .next t →
    t.config = s.config ∧
    ((∃ rest, s.inputs = .reset :: rest) ∨
      (t.ctrl.currentAddress = s.ctrl.currentAddress ∧
        (t.seq.busUp = s.seq.busUp ∨
          (t.seq.busUp = true ∧ s.seq.phase = .i1 ∧ t.io.op = 0x01))))

/-- 10_state.md R22: `st` and `r0` are not touched while an operation runs, and no step but a request or a reset writes
what the host writes. That `RBUF` too keeps its value while busy is the model's choice (DESIGN CHOICE, log 7). -/
def Obligations.HostRegistersHeld : Prop :=
  ∀ s t : State, step s = .next t →
    (s.io.busy = true → t.io.busy = true →
      t.io.st = s.io.st ∧ t.io.r0 = s.io.r0 ∧ t.io.rbuf = s.io.rbuf) ∧
    ((∀ rest, s.inputs ≠ .reset :: rest) → (s.io.busy = true ∨ ∀ r rest, s.inputs ≠ .request r :: rest) →
      t.io.op = s.io.op ∧ t.io.a0 = s.io.a0 ∧ t.io.a1 = s.io.a1 ∧ t.io.wbuf = s.io.wbuf)

/-- 10_state.md R32, 93_implementation_defined.md U15: scratch left over from earlier never shows: two consistent
states that differ only in scratch no later step of the operation reads take steps that again differ only so. -/
def Obligations.DeadScratchNeverShows : Prop :=
  ∀ s t s' : State, s.Consistent → s.live = t.live → step s = .next s' →
    ∃ t', step t = .next t' ∧ s'.live = t'.live

/-- 10_state.md R22, 30_encoding.md R100: an operation ignores the operands its format does not read. 45_erase.md R202:
`ERASE_BLOCK` ignores its block number too, which its format (REQ1) has but which is "read by no step". -/
def Obligations.UnreadOperandsIgnored : Prop :=
  ∀ (i : Instr) (s t : State) (a0 a1 : Word) (wbuf : List Byte), exec i s = .next t →
    (i.requestFormat = some .req0 ∨ i = .opEraseBlock →
      exec i (s.withOperands a0 a1 wbuf) = .next (t.withOperands a0 a1 wbuf)) ∧
    (i.requestFormat = some .req1 →
      exec i (s.withOperands s.io.a0 a1 wbuf) = .next (t.withOperands s.io.a0 a1 wbuf)) ∧
    (i.requestFormat = some .req2 →
      exec i (s.withOperands s.io.a0 s.io.a1 wbuf) = .next (t.withOperands s.io.a0 s.io.a1 wbuf))

/-! ### How operations end -/

/-- 00_scope.md R15, 60_exceptions.md R222: the step that ends an operation writes `st`, `r0`, `busy`, `phase` and, as
U7 and U15 leave them open, `RBUF` (log 7) and scratch (log 8); nothing else changes (`draws` is the model's counter,
log 2). A non-zero status comes with the operation's failure value. -/
def Obligations.EndingWritesOnlyTheResult : Prop :=
  ∀ (i : Instr) (s t : State), exec i s = .next t → s.seq.phase ≠ .idle → t.seq.phase = .idle →
    i.space = .host →
    t = { s with
          io := { s.io with st := t.io.st, r0 := t.io.r0, rbuf := t.io.rbuf, busy := false }
          seq := { s.seq with phase := .idle, scratch := t.seq.scratch }
          draws := t.draws } ∧
    (t.io.st ≠ 0 → t.io.r0 = failureValueOf s.config i)

/-- 60_exceptions.md section 1 (R217): the statuses each operation can end with, from any label it reaches with these
parameters (a consistent engine stands at one). -/
def Obligations.OperationsEndWithTheirStatuses : Prop :=
  ∀ (i : Instr) (s t : State), exec i s = .next t → s.seq.phase ∈ labelsIn s.config i → t.seq.phase = .idle →
    t.io.st ∈ statusesOf s.config i

/-- 60_exceptions.md R231, 44_bulk_transfer.md R189: a gated operation requested in state UNINITIALIZED ends at once
with `StateError`, its failure value in `r0`, no event and nothing else changed. -/
def Obligations.ClosedGateFailsFast : Prop :=
  ∀ (i : Instr) (s : State), isGated i = true → s.seq.phase = .idle → s.ctrl.activeDevice = none → s.TurnedAway i

/-- 60_exceptions.md R232: `INITIALIZE` requested in state INITIALIZED ends at once with `StateError`, `r0 = 0`, no event
and no state change; requested in state UNINITIALIZED it passes the gate to step 1. -/
def Obligations.SecondInitializeRefused : Prop :=
  ∀ s : State, s.seq.phase = .idle →
    (s.ctrl.activeDevice ≠ none → s.TurnedAway .opInitialize) ∧
    (s.ctrl.activeDevice = none → ∃ s1, exec .opInitialize s = .next s1 ∧
      exec .opInitialize s1 = .next
        { s with io := { s.io with busy := true }, seq := { s.seq with phase := .i1 } })

/-- 60_exceptions.md R236, 93_implementation_defined.md U1 (the model's stop, log 14): an operation asked to run while
the sequencer stands at a label that is not its own is refused: the host has no such move. -/
def Obligations.RequestWhileBusyRefused : Prop :=
  ∀ (i : Instr) (s : State), i.space = .host → s.seq.phase ≠ .idle → s.seq.phase ∉ labelsOf i →
    exec i s = .refused .requestWhileBusy

/-- 43_status_access.md R184 (log 13): with the harness's bound used up a busy-poll reports not finished. -/
def Obligations.PollLimitReportsNotFinished : Prop :=
  ∀ (i : Instr) (s : State) (n : Nat) (x : BusCommand × Byte × Phase), pollAt s.config i s.seq.phase = some x →
    s.config.pollLimit = some n → n ≤ s.polls → exec i s = .refused .notFinished

/-! ### Bus commands -/

/-- 30_encoding.md R110, R111 (`BUS_READ`): the three read commands: one event with the bytes the transport answers, as
many as R110 says. 60_exceptions.md R240: what they return on the reference chip, and what they change of it: a read of
register 1 uses up one busy read, each of them disarms a reset, nothing else. That a bus command is an instruction that
runs in every state, keeps its answer in scratch and leaves `phase` where it is, is the model's reading (DEDUCED, log
21). -/
def Obligations.BusReadsComplete : Prop :=
  (∀ s : State, ∃ t m y c, exec .cmdRdid s = .next t ∧
    (s.ask (.readCommand s.config.cmdRdid 3)).bytes = [m, y, c] ∧
    t.trace = s.trace ++ [.readCmd s.config.cmdRdid 3 [m, y, c]] ∧ t.seq.scratch.ident = ⟨m, y, c⟩ ∧
    s.Kept t ∧ t.io = s.io ∧ t.seq.phase = s.seq.phase ∧ s.ArrayKept t) ∧
  (∀ s : State, ∃ t b, exec .cmdRdsr1 s = .next t ∧
    (s.ask (.readCommand s.config.cmdRdsr1 1)).bytes = [b] ∧
    t.trace = s.trace ++ [.readCmd s.config.cmdRdsr1 1 [b]] ∧ t.seq.scratch.status = b ∧
    s.Kept t ∧ t.io = s.io ∧ t.seq.phase = s.seq.phase ∧ s.ArrayKept t) ∧
  (∀ s : State, ∃ t b, exec .cmdRdsr2 s = .next t ∧
    (s.ask (.readCommand s.config.cmdRdsr2 1)).bytes = [b] ∧
    t.trace = s.trace ++ [.readCmd s.config.cmdRdsr2 1 [b]] ∧ t.seq.scratch.status = b ∧
    s.Kept t ∧ t.io = s.io ∧ t.seq.phase = s.seq.phase ∧ s.ArrayKept t) ∧
  (∀ (s : State) (chip : Chip), s.transport = .reference chip → s.seq.busUp = true → s.config.DistinctCommands →
    (∃ t, exec .cmdRdid s = .next t ∧ t.seq.scratch.ident = chip.jedec ∧
      t.transport = .reference { chip with rstArmed := false }) ∧
    (∃ t, exec .cmdRdsr1 s = .next t ∧
      t.seq.scratch.status = (if chip.busyReads = 0 then chip.sr1 else chip.sr1 ||| s.config.wipMask) ∧
      t.transport = .reference { chip with rstArmed := false, busyReads := chip.busyReads - 1 }) ∧
    (∃ t, exec .cmdRdsr2 s = .next t ∧ t.seq.scratch.status = chip.sr2 ∧
      t.transport = .reference { chip with rstArmed := false }))

/-- 30_encoding.md R110, R111 (`BUS_WRITE`): the two status writes: one event with their payload. 60_exceptions.md R240:
on the reference chip, with the latch set and nothing in flight, they write the status registers but for write-in-progress
and write-suspended, use up the latch and keep the chip busy; else they are ignored; either way they disarm a reset. That
a bus command is an instruction that runs in every state and does not move the sequencer is the model's reading (DEDUCED,
log 21). That it runs with a payload of a length R110 does not give is its choice (DESIGN CHOICE, log 23), and so is that
the chip reacts to it also before `T.begin`, which R64 leaves open (DESIGN CHOICE, log 3). -/
def Obligations.BusWritesComplete : Prop :=
  (∀ (s : State) (payload : List Byte),
    (∃ t, exec (.cmdWrsr1 payload) s = .next t ∧ t.trace = s.trace ++ [.writeCmd s.config.cmdWrsr1 payload] ∧
      s.Kept t ∧ t.io = s.io ∧ t.seq = s.seq ∧ s.ArrayKept t) ∧
    (∃ t, exec (.cmdWrsr2 payload) s = .next t ∧ t.trace = s.trace ++ [.writeCmd s.config.cmdWrsr2 payload] ∧
      s.Kept t ∧ t.io = s.io ∧ t.seq = s.seq ∧ s.ArrayKept t)) ∧
  (∀ (s : State) (chip : Chip) (b0 b1 : Byte), s.transport = .reference chip → s.config.DistinctCommands →
    (chip.wel = true → chip.busyReads = 0 →
      (∃ t, exec (.cmdWrsr1 [b0]) s = .next t ∧
        t.transport = .reference { chip with
          sr1 := b0 &&& ~~~s.config.wipMask, wel := false, rstArmed := false, busyReads := chip.srWriteReads }) ∧
      (∃ t, exec (.cmdWrsr1 [b0, b1]) s = .next t ∧
        t.transport = .reference { chip with
          sr1 := b0 &&& ~~~s.config.wipMask, sr2 := b1 &&& ~~~s.config.susMask
          wel := false, rstArmed := false, busyReads := chip.srWriteReads }) ∧
      (∃ t, exec (.cmdWrsr2 [b0]) s = .next t ∧
        t.transport = .reference { chip with
          sr2 := b0 &&& ~~~s.config.susMask, wel := false, rstArmed := false, busyReads := chip.srWriteReads })) ∧
    (chip.wel = false ∨ chip.busyReads ≠ 0 →
      (∃ t, exec (.cmdWrsr1 [b0]) s = .next t ∧ t.transport = .reference { chip with rstArmed := false }) ∧
      (∃ t, exec (.cmdWrsr1 [b0, b1]) s = .next t ∧ t.transport = .reference { chip with rstArmed := false }) ∧
      (∃ t, exec (.cmdWrsr2 [b0]) s = .next t ∧ t.transport = .reference { chip with rstArmed := false })))

/-- 30_encoding.md R110, R111 (`BUS_RUN`): the five commands without payload: one event with the boolean the transport
answers; all but the chip erase leave the array alone. 60_exceptions.md R240: what each does to the reference chip's
latch, status registers, reset-armed flag and busy reads, and that it answers `true`. That a bus command is an instruction
that runs in every state, keeps its answer in scratch and leaves `phase` where it is, is the model's reading (DEDUCED,
log 21); that a second `CMD_RSTEN` leaves the reset armed is its choice (DESIGN CHOICE, log 16). -/
def Obligations.BusRunsComplete : Prop :=
  (∀ s : State,
    (∃ t ok, exec .cmdWren s = .next t ∧ ok = (s.ask (.runCommand s.config.cmdWren)).ok ∧
      t.trace = s.trace ++ [.runCmd s.config.cmdWren ok] ∧ t.seq.scratch.ok = ok ∧
      s.Kept t ∧ t.io = s.io ∧ t.seq.phase = s.seq.phase ∧ s.ArrayKept t) ∧
    (∃ t ok, exec .cmdWrdi s = .next t ∧ ok = (s.ask (.runCommand s.config.cmdWrdi)).ok ∧
      t.trace = s.trace ++ [.runCmd s.config.cmdWrdi ok] ∧ t.seq.scratch.ok = ok ∧
      s.Kept t ∧ t.io = s.io ∧ t.seq.phase = s.seq.phase ∧ s.ArrayKept t) ∧
    (∃ t ok, exec .cmdRsten s = .next t ∧ ok = (s.ask (.runCommand s.config.cmdRsten)).ok ∧
      t.trace = s.trace ++ [.runCmd s.config.cmdRsten ok] ∧ t.seq.scratch.ok = ok ∧
      s.Kept t ∧ t.io = s.io ∧ t.seq.phase = s.seq.phase ∧ s.ArrayKept t) ∧
    (∃ t ok, exec .cmdRst s = .next t ∧ ok = (s.ask (.runCommand s.config.cmdRst)).ok ∧
      t.trace = s.trace ++ [.runCmd s.config.cmdRst ok] ∧ t.seq.scratch.ok = ok ∧
      s.Kept t ∧ t.io = s.io ∧ t.seq.phase = s.seq.phase ∧ s.ArrayKept t) ∧
    (∃ t ok, exec .cmdCe s = .next t ∧ ok = (s.ask (.runCommand s.config.cmdCe)).ok ∧
      t.trace = s.trace ++ [.runCmd s.config.cmdCe ok] ∧ t.seq.scratch.ok = ok ∧
      s.Kept t ∧ t.io = s.io ∧ t.seq.phase = s.seq.phase)) ∧
  (∀ (s : State) (chip : Chip), s.transport = .reference chip → s.seq.busUp = true → s.config.DistinctCommands →
    (∃ t, exec .cmdWren s = .next t ∧ t.seq.scratch.ok = true ∧
      t.transport = .reference { chip with
        wel := if chip.busyReads = 0 then true else chip.wel, rstArmed := false }) ∧
    (∃ t, exec .cmdWrdi s = .next t ∧ t.seq.scratch.ok = true ∧
      t.transport = .reference { chip with wel := false, rstArmed := false }) ∧
    (∃ t, exec .cmdRsten s = .next t ∧ t.seq.scratch.ok = true ∧
      t.transport = .reference { chip with rstArmed := true }) ∧
    (∃ t, exec .cmdRst s = .next t ∧ t.seq.scratch.ok = true ∧
      (chip.rstArmed = true → t.transport = .reference { chip with
        wel := false, rstArmed := false, sr2 := chip.sr2 &&& ~~~s.config.susMask, busyReads := 0 }) ∧
      (chip.rstArmed = false → t.transport = s.transport)) ∧
    (∃ t, exec .cmdCe s = .next t ∧ t.seq.scratch.ok = true ∧
      (chip.wel = true → chip.busyReads = 0 → t.transport = .reference { chip with
        mem := Memory.uniform 0xFF, wel := false, rstArmed := false, busyReads := chip.ceReads }) ∧
      (chip.wel = false ∨ chip.busyReads ≠ 0 → t.transport = .reference { chip with rstArmed := false })))

/-- 30_encoding.md R110 ("issued by"), 20_memory.md R83, R84: at each label that sends a bus command, the operation's
step is that command with exactly its payload, and then only `phase` (and the harness's poll counter, log 13) moves; at
every other label no bus command is sent. That a bus command is an instruction with that meaning (the call, the answer in
scratch, no move of `phase`) is the model's reading (DEDUCED, log 21). -/
def Obligations.OperationsSendTheirCommands : Prop :=
  ∀ (i : Instr) (s u : State), i.space = .host → exec i s = .next u →
    (∀ c, commandSentAt i s = some c →
      ∃ t, exec c s = .next t ∧ u = { t with seq := { t.seq with phase := u.seq.phase }, polls := u.polls }) ∧
    (commandSentAt i s = none →
      ∀ e, u.trace = s.trace ++ [e] →
        (∀ op n r, e ≠ .readCmd op n r) ∧ (∀ op p, e ≠ .writeCmd op p) ∧ (∀ op ok, e ≠ .runCmd op ok))

/-! ### The transport -/

/-- 20_memory.md R63: whatever the state, a primitive answers bytes of exactly the length asked, and any boolean with
any bytes of that length can be the answer: under a script the answer is the script's first entry. -/
def Obligations.AnyAnswerOfTheAskedLength : Prop :=
  (∀ (s : State) (p : Primitive), (s.ask p).bytes.length = p.asked) ∧
  (∀ (s : State) (p : Primitive) (a : Answer), a.bytes.length = p.asked →
    ∃ tr, ({ s with transport := tr } : State).ask p = a) ∧
  (∀ (s : State) (p : Primitive) (a : Answer) (rest : List Answer), s.transport = .scripted (a :: rest) →
    a.bytes.length = p.asked → s.ask p = a)

/-! ### INITIALIZE -/

/-- 40_catalog.md R131: `Lookup` finds the first row whose three bytes match, and nothing exactly when no row does. -/
def Obligations.LookupFindsFirstMatch : Prop :=
  ∀ (catalog : List Descriptor) (i : Ident),
    (∀ k d, lookup catalog i = some (k, d) ↔
      (catalog[k]? = some d ∧ d.triplet = (i.manufacturer, i.memoryType, i.capacity) ∧
        ∀ j d', j < k → catalog[j]? = some d' → d'.triplet ≠ (i.manufacturer, i.memoryType, i.capacity))) ∧
    (lookup catalog i = none ↔ ∀ d ∈ catalog, d.triplet ≠ (i.manufacturer, i.memoryType, i.capacity))

/-- 41_initialize.md R141, R142, R143: on every transport, `INITIALIZE` in state UNINITIALIZED brings the bus up and reads
the identification; a triplet not in the catalog ends it with `UnsupportedDevice`, `r0 = 0`, exactly those two events,
`bus_up = 1` and the controller registers at their pre-call values; a triplet found binds the row and goes on to step
4 without an event. -/
def Obligations.InitializeIdentifies : Prop :=
  ∀ s : State, s.seq.phase = .idle → s.ctrl.activeDevice = none →
    ∃ s1 s2 s3 s4 t m y c,
      exec .opInitialize s = .next s1 ∧ exec .opInitialize s1 = .next s2 ∧ exec .opInitialize s2 = .next s3 ∧
      exec .opInitialize s3 = .next s4 ∧ exec .opInitialize s4 = .next t ∧
      (s3.ask (.readCommand s.config.cmdRdid 3)).bytes = [m, y, c] ∧
      t.trace = s.trace ++ [.begin, .readCmd s.config.cmdRdid 3 [m, y, c]] ∧
      t.seq.busUp = true ∧ t.ctrl = s.ctrl ∧ t.config = s.config ∧
      (lookup s.config.catalog ⟨m, y, c⟩ = none → t.EndedWith 1 0) ∧
      (∀ k d, lookup s.config.catalog ⟨m, y, c⟩ = some (k, d) →
        t.io.busy = true ∧ t.seq.phase = .i4 ∧ t.seq.scratch.cand = some k ∧ t.seq.scratch.device = d ∧
        t.io.st = s.io.st ∧ t.io.r0 = s.io.r0)

/-- 41_initialize.md R146, R147: step 6 sends "enable reset", then "reset", with nothing between, then waits 30
microseconds, whatever the transport answers. -/
def Obligations.InitializeResetsTheChip : Prop :=
  ∀ s : State, s.seq.phase = .i6a →
    ∃ s1 s2 t ok1 ok2, exec .opInitialize s = .next s1 ∧ exec .opInitialize s1 = .next s2 ∧
      exec .opInitialize s2 = .next t ∧ t.seq.phase = .i7 ∧ s.Kept t ∧ t.io = s.io ∧
      t.trace = s.trace ++ [.runCmd s.config.cmdRsten ok1, .runCmd s.config.cmdRst ok2, .delay 30]

/-- 41_initialize.md R148: step 7 is skipped for mask 0; otherwise one read of register 1 or 2, chosen by
`single_status_byte` alone, decides between step 8 (bit set) and step 7a (bit clear). -/
def Obligations.QuadEnableTest : Prop :=
  ∀ s : State, s.seq.phase = .i7 →
    (s.seq.scratch.device.quadEnableBitMask = 0 →
      exec .opInitialize s = .next { s with seq := { s.seq with phase := .i8 } }) ∧
    (s.seq.scratch.device.quadEnableBitMask ≠ 0 →
      ∃ s1 t b, exec .opInitialize s = .next s1 ∧ exec .opInitialize s1 = .next t ∧
        (s1.ask (.readCommand
          (if s.seq.scratch.device.singleStatusByte then s.config.cmdRdsr1 else s.config.cmdRdsr2) 1)).bytes = [b] ∧
        t.trace = s.trace ++
          [.readCmd (if s.seq.scratch.device.singleStatusByte then s.config.cmdRdsr1 else s.config.cmdRdsr2) 1 [b]] ∧
        s.Kept t ∧ t.io = s.io ∧ t.seq.scratch.device = s.seq.scratch.device ∧
        t.seq.phase = (if b &&& s.seq.scratch.device.quadEnableBitMask = 0 then .i7a else .i8))

/-- 41_initialize.md R149, R150: the quad-enable write: write-enable, the image `[0x00, mask]`, and exactly one status
write by the three-way branch of R150. -/
def Obligations.QuadEnableWritePaths : Prop :=
  ∀ s : State, s.seq.phase = .i7a →
    ∃ s1 s2 t ok, exec .opInitialize s = .next s1 ∧ exec .opInitialize s1 = .next s2 ∧
      exec .opInitialize s2 = .next t ∧ t.seq.phase = .i8 ∧ s.Kept t ∧ t.io = s.io ∧
      t.trace = s.trace ++ [.runCmd s.config.cmdWren ok,
        (if s.seq.scratch.device.writeStatusRegisterSplit then
          .writeCmd s.config.cmdWrsr2 [s.seq.scratch.device.quadEnableBitMask]
        else if s.seq.scratch.device.singleStatusByte then
          .writeCmd s.config.cmdWrsr1 [s.seq.scratch.device.quadEnableBitMask]
        else .writeCmd s.config.cmdWrsr1 [0x00, s.seq.scratch.device.quadEnableBitMask])]

/-- 41_initialize.md R151, R152: with sector protection step 8 sends write-enable and the one-byte clear, without it
nothing; then step 9 sends write-disable, unconditionally. -/
def Obligations.ProtectionClearAndWriteDisable : Prop :=
  ∀ s : State, s.seq.phase = .i8 →
    (s.seq.scratch.device.hasSectorProtection = true →
      ∃ s1 s2 s3 t ok1 ok2, exec .opInitialize s = .next s1 ∧ exec .opInitialize s1 = .next s2 ∧
        exec .opInitialize s2 = .next s3 ∧ exec .opInitialize s3 = .next t ∧ t.seq.phase = .i10 ∧ s.Kept t ∧
        t.io = s.io ∧
        t.trace = s.trace ++
          [.runCmd s.config.cmdWren ok1, .writeCmd s.config.cmdWrsr1 [0x00], .runCmd s.config.cmdWrdi ok2]) ∧
    (s.seq.scratch.device.hasSectorProtection = false →
      ∃ s1 t ok, exec .opInitialize s = .next s1 ∧ exec .opInitialize s1 = .next t ∧ t.seq.phase = .i10 ∧
        s.Kept t ∧ t.io = s.io ∧ t.trace = s.trace ++ [.runCmd s.config.cmdWrdi ok])

/-- 41_initialize.md R154, R155: steps 11 and 12 record the device and its geometry without an event and end with
`st = 0`, `r0 = 1`; `current_address` is not written. -/
def Obligations.InitializeRecordsAndCompletes : Prop :=
  ∀ s : State, s.seq.phase = .i11 →
    ∃ s1 t, exec .opInitialize s = .next s1 ∧ exec .opInitialize s1 = .next t ∧ t.EndedWith 0 1 ∧
      t.ctrl = { activeDevice := s.seq.scratch.cand, totalSize := s.seq.scratch.device.totalSize, pageSize := 256,
                 pageCount := BitVec.ofNat 32 (s.seq.scratch.device.totalSize.toNat / 256),
                 currentAddress := s.ctrl.currentAddress } ∧
      t.trace = s.trace ∧ t.transport = s.transport ∧ t.seq.busUp = s.seq.busUp ∧ t.config = s.config

/-- 41_initialize.md section 1 (R140), R156: a whole successful `INITIALIZE`, for every configuration, every catalog row,
every identification that finds it, every number of busy polls and every boolean the transport answers: the events are
exactly those of R140 in order, the result is success, and the registers take the row's geometry. -/
def Obligations.InitializeSucceeds : Prop :=
  ∀ (s : State) (r : InitRun) (k : Nat) (d : Descriptor) (rest : List Answer),
    s.seq.phase = .idle → s.ctrl.activeDevice = none → s.config.pollLimit = none →
    lookup s.config.catalog r.ident = some (k, d) → r.Clears s.config →
    s.transport = .scripted (r.answers d ++ rest) →
    ∃ n u t, execTimes .opInitialize n s = .next u ∧ exec .opInitialize u = .next t ∧ t.EndedWith 0 1 ∧
      t.trace = s.trace ++ r.events s.config d ∧
      t.ctrl = { activeDevice := some k, totalSize := d.totalSize, pageSize := 256, pageCount := d.totalSize / 256,
                 currentAddress := s.ctrl.currentAddress } ∧
      t.seq.busUp = true ∧ t.transport = .scripted rest ∧ t.config = s.config ∧ t.inputs = s.inputs ∧
      t.io.op = s.io.op ∧ t.io.a0 = s.io.a0 ∧ t.io.a1 = s.io.a1 ∧ t.io.wbuf = s.io.wbuf

/-! ### The busy-poll -/

/-- 43_status_access.md R183, 20_memory.md R83: at every place of the busy-poll, on every transport, one pass is one
status read; the sequencer stays exactly when a masked bit of the byte read is set. R184 (the counter is the model's form,
log 13): without a bound, or with one that is not used up, the pass goes on, and `polls` counts the reads made without
success. -/
def Obligations.BusyPollPass : Prop :=
  ∀ (i : Instr) (s : State) (cmd : BusCommand) (mask : Byte) (after : Phase),
    pollAt s.config i s.seq.phase = some (cmd, mask, after) → (∀ n, s.config.pollLimit = some n → s.polls < n) →
    ∃ t b, exec i s = .next t ∧ (s.ask (.readCommand (s.config.byteOf cmd) 1)).bytes = [b] ∧
      t.trace = s.trace ++ [.readCmd (s.config.byteOf cmd) 1 [b]] ∧
      t.seq.phase = (if b &&& mask = 0 then after else s.seq.phase) ∧
      t.polls = (if b &&& mask = 0 then 0 else s.polls + 1) ∧ s.Kept t ∧ t.io = s.io

/-- 43_status_access.md R183, R185: a busy-wait that sees any number of busy bytes and then a clear one makes exactly
that many reads and goes on with the caller's next step, without a bound or with one that leaves room for that many reads
(R184, log 13). -/
def Obligations.BusyWaitEndsAtFirstClear : Prop :=
  ∀ (i : Instr) (s : State) (cmd : BusCommand) (mask : Byte) (after : Phase) (busy : List Byte) (clear : Byte)
    (rest : List Answer),
    pollAt s.config i s.seq.phase = some (cmd, mask, after) →
    (∀ n, s.config.pollLimit = some n → s.polls + busy.length < n) →
    (∀ b ∈ busy, bitsSet b mask = true) → bitsSet clear mask = false →
    s.transport = .scripted (statusAnswers (busy ++ [clear]) ++ rest) →
    ∃ t, execTimes i (busy.length + 1) s = .next t ∧ t.seq.phase = after ∧ s.Kept t ∧ t.io = s.io ∧ t.polls = 0 ∧
      t.trace = s.trace ++ statusEvents (s.config.byteOf cmd) (busy ++ [clear]) ∧ t.transport = .scripted rest

/-- 60_exceptions.md R219: the hang: as long as every byte read has a masked bit set, the operation stays busy at the
same label, writes no result and no register, and only adds status reads to the trace; the harness's counter (log 13)
counts them, and a bound leaves the run alone until it is used up (R184). -/
def Obligations.HangKeepsPolling : Prop :=
  ∀ (i : Instr) (s : State) (cmd : BusCommand) (mask : Byte) (after : Phase) (busy : List Byte) (rest : List Answer),
    pollAt s.config i s.seq.phase = some (cmd, mask, after) →
    (∀ n, s.config.pollLimit = some n → s.polls + busy.length ≤ n) →
    (∀ b ∈ busy, bitsSet b mask = true) → s.transport = .scripted (statusAnswers busy ++ rest) →
    ∃ t, execTimes i busy.length s = .next t ∧ t.seq.phase = s.seq.phase ∧ s.Kept t ∧ t.io = s.io ∧
      t.polls = s.polls + busy.length ∧
      t.trace = s.trace ++ statusEvents (s.config.byteOf cmd) busy ∧ t.transport = .scripted rest

/-! ### Identification, geometry, status -/

/-- 42_identification.md R170, R171, R172: in either lifecycle state, on every transport, the two queries make one
identification read and return the bytes it answers, packed; nothing else of the engine or of the array changes. -/
def Obligations.IdentificationQueries : Prop :=
  (∀ s : State, s.seq.phase = .idle →
    ∃ s1 s2 t m y c, exec .opReadMfrDevId s = .next s1 ∧ exec .opReadMfrDevId s1 = .next s2 ∧
      exec .opReadMfrDevId s2 = .next t ∧ s.Kept t ∧ s.ArrayKept t ∧
      (s1.ask (.readCommand s.config.cmdRdid 3)).bytes = [m, y, c] ∧
      t.trace = s.trace ++ [.readCmd s.config.cmdRdid 3 [m, y, c]] ∧
      t.EndedWith 0 t.io.r0 ∧
      t.io.r0.toNat = 256 * m.toNat + (if s.config.mfrDevDeviceIndex = .one then y.toNat else c.toNat)) ∧
  (∀ s : State, s.seq.phase = .idle →
    ∃ s1 s2 t m y c, exec .opReadJedecId s = .next s1 ∧ exec .opReadJedecId s1 = .next s2 ∧
      exec .opReadJedecId s2 = .next t ∧ s.Kept t ∧ s.ArrayKept t ∧
      (s1.ask (.readCommand s.config.cmdRdid 3)).bytes = [m, y, c] ∧
      t.trace = s.trace ++ [.readCmd s.config.cmdRdid 3 [m, y, c]] ∧
      t.EndedWith 0 t.io.r0 ∧ t.io.r0.toNat = 65536 * m.toNat + 256 * y.toNat + c.toNat)

/-- 42_identification.md R175, R176, R177: the three accessors return their registers with status 0, no event, in either
lifecycle state (that they take a step of their own after the request is the model's choice, log 5). -/
def Obligations.GeometryAccessors : Prop :=
  ∀ s : State, s.seq.phase = .idle →
    (∃ s1 t, exec .opGetTotalSize s = .next s1 ∧ exec .opGetTotalSize s1 = .next t ∧ s.Kept t ∧
      t.EndedWith 0 s.ctrl.totalSize ∧ t.trace = s.trace ∧ t.transport = s.transport) ∧
    (∃ s1 t, exec .opGetPageSize s = .next s1 ∧ exec .opGetPageSize s1 = .next t ∧ s.Kept t ∧
      t.EndedWith 0 s.ctrl.pageSize ∧ t.trace = s.trace ∧ t.transport = s.transport) ∧
    (∃ s1 t, exec .opGetPageCount s = .next s1 ∧ exec .opGetPageCount s1 = .next t ∧ s.Kept t ∧
      t.EndedWith 0 s.ctrl.pageCount ∧ t.trace = s.trace ∧ t.transport = s.transport)

/-- 43_status_access.md R180, R181: the two status reads make one read and return the byte it answers whole, in either
lifecycle state, on every transport. -/
def Obligations.StatusReads : Prop :=
  (∀ s : State, s.seq.phase = .idle →
    ∃ s1 s2 t b, exec .opReadStatus1 s = .next s1 ∧ exec .opReadStatus1 s1 = .next s2 ∧
      exec .opReadStatus1 s2 = .next t ∧ s.Kept t ∧ s.ArrayKept t ∧
      (s1.ask (.readCommand s.config.cmdRdsr1 1)).bytes = [b] ∧
      t.trace = s.trace ++ [.readCmd s.config.cmdRdsr1 1 [b]] ∧ t.EndedWith 0 (BitVec.ofNat 32 b.toNat)) ∧
  (∀ s : State, s.seq.phase = .idle →
    ∃ s1 s2 t b, exec .opReadStatus2 s = .next s1 ∧ exec .opReadStatus2 s1 = .next s2 ∧
      exec .opReadStatus2 s2 = .next t ∧ s.Kept t ∧ s.ArrayKept t ∧
      (s1.ask (.readCommand s.config.cmdRdsr2 1)).bytes = [b] ∧
      t.trace = s.trace ++ [.readCmd s.config.cmdRdsr2 1 [b]] ∧ t.EndedWith 0 (BitVec.ofNat 32 b.toNat))

/-- 43_status_access.md R182: write-enable sends one command and reports the transport's boolean: 1 with status 0, or
`TransportFailure` with 0; in either lifecycle state, on every transport. -/
def Obligations.WriteEnableReportsTheTransport : Prop :=
  ∀ s : State, s.seq.phase = .idle →
    ∃ s1 s2 t ok, exec .opWriteEnable s = .next s1 ∧ exec .opWriteEnable s1 = .next s2 ∧
      exec .opWriteEnable s2 = .next t ∧ s.Kept t ∧ s.ArrayKept t ∧
      ok = (s1.ask (.runCommand s.config.cmdWren)).ok ∧
      t.trace = s.trace ++ [.runCmd s.config.cmdWren ok] ∧
      (ok = true → t.EndedWith 0 1) ∧ (ok = false → t.EndedWith 2 0)

/-! ### Transfers -/

/-- 44_bulk_transfer.md R190: in state UNINITIALIZED `READ_BUFFER` is turned away; in state INITIALIZED, on every
transport, it makes exactly one `MemRead` of the host's address and length; what that answers decides: success returns
the length and delivers the bytes, failure is `TransportFailure` with 0. On the reference chip (60_exceptions.md R240, not normative)
the answer is the array's bytes from `a0` on, or `false` past its end. -/
def Obligations.ReadBufferCompletes : Prop :=
  ∀ s : State, s.seq.phase = .idle →
    (s.ctrl.activeDevice = none → s.TurnedAway .opReadBuffer) ∧
    (s.ctrl.activeDevice ≠ none →
      ∃ s1 s2 s3 t ok bytes, exec .opReadBuffer s = .next s1 ∧ exec .opReadBuffer s1 = .next s2 ∧
        exec .opReadBuffer s2 = .next s3 ∧ exec .opReadBuffer s3 = .next t ∧ s.Kept t ∧ s.ArrayKept t ∧
        s2.ask (.memRead s.io.a0 s.io.a1) = ⟨ok, bytes⟩ ∧ s.ChipAnswersRead s.io.a0 s.io.a1 ok bytes ∧
        bytes.length = s.io.a1.toNat ∧ t.trace = s.trace ++ [.readMem s.io.a0 s.io.a1 ok bytes] ∧
        (ok = true → t.EndedWith 0 s.io.a1 ∧ t.io.rbuf = bytes) ∧ (ok = false → t.EndedWith 2 0))

/-- 44_bulk_transfer.md R191: in state UNINITIALIZED `WRITE_BUFFER` is turned away; in state INITIALIZED, on every
transport, it makes exactly one `MemWrite` of the host's address and bytes (`a1` of them, R23), with no write-enable
before and no poll after; what that answers decides: success returns the length, failure is `TransportFailure` with 0.
The answer is the script's under a script, and on the reference chip (60_exceptions.md R240, not normative) whether the bytes lie inside
the array. -/
def Obligations.WriteBufferCompletes : Prop :=
  ∀ s : State, s.seq.phase = .idle →
    (s.ctrl.activeDevice = none → s.TurnedAway .opWriteBuffer) ∧
    (s.ctrl.activeDevice ≠ none → s.io.wbuf.length = s.io.a1.toNat →
      ∃ s1 s2 s3 t ok, exec .opWriteBuffer s = .next s1 ∧ exec .opWriteBuffer s1 = .next s2 ∧
        exec .opWriteBuffer s2 = .next s3 ∧ exec .opWriteBuffer s3 = .next t ∧ s.Kept t ∧
        (∀ a rest, s.transport = .scripted (a :: rest) → ok = a.ok ∧ t.transport = .scripted rest) ∧
        (∀ chip, s.transport = .reference chip → s.seq.busUp = true →
          ok = decide (s.io.a0.toNat + s.io.a1.toNat ≤ chip.size)) ∧
        t.trace = s.trace ++ [.writeMem s.io.a0 s.io.wbuf ok] ∧
        (ok = true → t.EndedWith 0 s.io.a1) ∧ (ok = false → t.EndedWith 2 0))

/-- 44_bulk_transfer.md R192, R193, R194: in state UNINITIALIZED the typed reads are turned away with their sentinel; in
state INITIALIZED, on every transport, each makes one `MemRead` of its width at `a0`; what that answers decides: success
returns the bytes little-endian, failure is `TransportFailure` with the sentinel. On the reference chip (60_exceptions.md
R240, not normative) the answer is the array's bytes from `a0` on, or `false` past its end. -/
def Obligations.TypedReadsComplete : Prop :=
  ∀ s : State, s.seq.phase = .idle →
    (s.ctrl.activeDevice = none → s.TurnedAway .opRead8 ∧ s.TurnedAway .opRead16 ∧ s.TurnedAway .opRead32) ∧
    (s.ctrl.activeDevice ≠ none →
      (∃ s1 s2 s3 t ok b0, exec .opRead8 s = .next s1 ∧ exec .opRead8 s1 = .next s2 ∧ exec .opRead8 s2 = .next s3 ∧
        exec .opRead8 s3 = .next t ∧ s.Kept t ∧ s.ArrayKept t ∧
        s2.ask (.memRead s.io.a0 1) = ⟨ok, [b0]⟩ ∧ s.ChipAnswersRead s.io.a0 1 ok [b0] ∧
        t.trace = s.trace ++ [.readMem s.io.a0 1 ok [b0]] ∧
        (ok = true → t.EndedWith 0 (BitVec.ofNat 32 b0.toNat)) ∧
        (ok = false → t.EndedWith 2 (BitVec.ofNat 32 s.config.errSentinel8.toNat))) ∧
      (∃ s1 s2 s3 t ok b0 b1, exec .opRead16 s = .next s1 ∧ exec .opRead16 s1 = .next s2 ∧
        exec .opRead16 s2 = .next s3 ∧ exec .opRead16 s3 = .next t ∧ s.Kept t ∧ s.ArrayKept t ∧
        s2.ask (.memRead s.io.a0 2) = ⟨ok, [b0, b1]⟩ ∧ s.ChipAnswersRead s.io.a0 2 ok [b0, b1] ∧
        t.trace = s.trace ++ [.readMem s.io.a0 2 ok [b0, b1]] ∧
        (ok = true → t.EndedWith 0 (BitVec.ofNat 32 (b0.toNat + 256 * b1.toNat))) ∧
        (ok = false → t.EndedWith 2 (BitVec.ofNat 32 s.config.errSentinel16.toNat))) ∧
      (∃ s1 s2 s3 t ok b0 b1 b2 b3, exec .opRead32 s = .next s1 ∧ exec .opRead32 s1 = .next s2 ∧
        exec .opRead32 s2 = .next s3 ∧ exec .opRead32 s3 = .next t ∧ s.Kept t ∧ s.ArrayKept t ∧
        s2.ask (.memRead s.io.a0 4) = ⟨ok, [b0, b1, b2, b3]⟩ ∧ s.ChipAnswersRead s.io.a0 4 ok [b0, b1, b2, b3] ∧
        t.trace = s.trace ++ [.readMem s.io.a0 4 ok [b0, b1, b2, b3]] ∧
        (ok = true → t.EndedWith 0
          (BitVec.ofNat 32 (b0.toNat + 256 * b1.toNat + 65536 * b2.toNat + 16777216 * b3.toNat))) ∧
        (ok = false → t.EndedWith 2 s.config.errSentinel32)))

/-! ### Erase -/

/-- 45_erase.md R200: in state INITIALIZED, for every number of busy polls and whatever the two commands answer,
`CHIP_ERASE` sends write-enable, the erase command, polls until write-in-progress is clear and ends with status 0 and
`r0 = 0`. -/
def Obligations.ChipEraseCompletes : Prop :=
  ∀ (s : State) (okWren okCe : Bool) (busy : List Byte) (clear : Byte) (rest : List Answer),
    s.seq.phase = .idle → s.ctrl.activeDevice ≠ none → s.config.pollLimit = none →
    (∀ b ∈ busy, bitsSet b s.config.wipMask = true) → bitsSet clear s.config.wipMask = false →
    s.transport = .scripted ([⟨okWren, []⟩, ⟨okCe, []⟩] ++ statusAnswers (busy ++ [clear]) ++ rest) →
    ∃ u t, execTimes .opChipErase (busy.length + 5) s = .next u ∧ exec .opChipErase u = .next t ∧
      t.EndedWith 0 0 ∧ s.Kept t ∧ t.transport = .scripted rest ∧
      t.trace = s.trace ++ [.runCmd s.config.cmdWren okWren, .runCmd s.config.cmdCe okCe]
        ++ statusEvents s.config.cmdRdsr1 (busy ++ [clear])

/-- 45_erase.md R201, 30_encoding.md R116: in state UNINITIALIZED `ERASE_SECTOR` is turned away; in state INITIALIZED, on
every transport, it makes one `T.eraseSector` at `(a0 * SECTOR_SIZE) mod 2^32`; mode `always_ok` reports 1 whatever
the transport answers, mode `propagate` reports its `false` as `TransportFailure`. -/
def Obligations.EraseSectorCompletes : Prop :=
  ∀ s : State, s.seq.phase = .idle →
    (s.ctrl.activeDevice = none → s.TurnedAway .opEraseSector) ∧
    (s.ctrl.activeDevice ≠ none →
      ∃ s1 s2 s3 s4 t ok, exec .opEraseSector s = .next s1 ∧ exec .opEraseSector s1 = .next s2 ∧
        exec .opEraseSector s2 = .next s3 ∧ exec .opEraseSector s3 = .next s4 ∧ exec .opEraseSector s4 = .next t ∧
        s.Kept t ∧
        ok = (s3.ask (.eraseSector
          (BitVec.ofNat 32 (s.io.a0.toNat * s.config.sectorSize.toNat % 2 ^ 32)))).ok ∧
        t.trace = s.trace ++
          [.eraseSector (BitVec.ofNat 32 (s.io.a0.toNat * s.config.sectorSize.toNat % 2 ^ 32)) ok] ∧
        (s.config.eraseSectorResult = .alwaysOk → t.EndedWith 0 1) ∧
        (s.config.eraseSectorResult = .propagate → ok = true → t.EndedWith 0 1) ∧
        (s.config.eraseSectorResult = .propagate → ok = false → t.EndedWith 2 0))

/-- 45_erase.md R202: in state INITIALIZED, `ERASE_BLOCK` in its default mode ends with `NotImplemented`, no event, the
chip untouched. -/
def Obligations.EraseBlockNotImplemented : Prop :=
  ∀ s : State, s.seq.phase = .idle → s.ctrl.activeDevice ≠ none → s.config.eraseBlockMode = .notImplemented →
    ∃ s1 s2 t, exec .opEraseBlock s = .next s1 ∧ exec .opEraseBlock s1 = .next s2 ∧ exec .opEraseBlock s2 = .next t ∧
      t.EndedWith 3 0 ∧ s.Kept t ∧ t.trace = s.trace ∧ t.transport = s.transport

/-- 45_erase.md R202: in mode `source_bracket` it sends a write-enable, polls, erases nothing and reports success. -/
def Obligations.EraseBlockSourceBracket : Prop :=
  ∀ (s : State) (okWren : Bool) (busy : List Byte) (clear : Byte) (rest : List Answer),
    s.seq.phase = .idle → s.ctrl.activeDevice ≠ none → s.config.eraseBlockMode = .sourceBracket →
    s.config.pollLimit = none → (∀ b ∈ busy, bitsSet b s.config.wipMask = true) →
    bitsSet clear s.config.wipMask = false →
    s.transport = .scripted ([⟨okWren, []⟩] ++ statusAnswers (busy ++ [clear]) ++ rest) →
    ∃ u t, execTimes .opEraseBlock (busy.length + 4) s = .next u ∧ exec .opEraseBlock u = .next t ∧
      t.EndedWith 0 0 ∧ s.Kept t ∧ t.transport = .scripted rest ∧
      t.trace = s.trace ++ [.runCmd s.config.cmdWren okWren] ++ statusEvents s.config.cmdRdsr1 (busy ++ [clear])

/-! ### The reference chip (not normative, R240) -/

/-- 60_exceptions.md section 12 (the model's canonical form, log 16): every step keeps the reference chip's array
canonical. -/
def Obligations.ArrayStaysCanonical : Prop :=
  ∀ s t : State, s.transport.memoryWf → step s = .next t → t.transport.memoryWf

/-- 60_exceptions.md section 12: of all instructions only the chip erase command, `CHIP_ERASE` at `C2`, `WRITE_BUFFER` at
`B1` and `ERASE_SECTOR` at `E2` can change a byte of the array. -/
def Obligations.ArrayChangedOnlyByThreeSteps : Prop :=
  ∀ (i : Instr) (s t : State), exec i s = .next t → i ≠ .cmdCe →
    ¬(i = .opChipErase ∧ s.seq.phase = .c2) → ¬(i = .opWriteBuffer ∧ s.seq.phase = .b1) →
    ¬(i = .opEraseSector ∧ s.seq.phase = .e2) → s.ArrayKept t

/-- 60_exceptions.md section 12, `MemWrite`: on the reference chip `WRITE_BUFFER` clears bits of exactly the bytes from
`a0` on, `a1` of them, when they lie inside the array, keeps the chip busy and changes no other register of it, and
otherwise changes nothing and reports `false`. -/
def Obligations.WriteBufferProgramsTheArray : Prop :=
  ∀ (s : State) (chip : Chip), s.seq.phase = .b1 → s.seq.busUp = true → s.transport = .reference chip →
    s.io.wbuf.length = s.io.a1.toNat →
    ∃ t, exec .opWriteBuffer s = .next t ∧
      (s.io.a0.toNat + s.io.a1.toNat ≤ chip.size →
        t.seq.scratch.ok = true ∧
        (∃ m, t.transport = .reference { chip with mem := m, busyReads := chip.progReads }) ∧
        (∀ (i : Nat) (h : i < s.io.wbuf.length),
          t.arrayByte (s.io.a0.toNat + i) = some (chip.mem.read (s.io.a0.toNat + i) &&& s.io.wbuf[i])) ∧
        (∀ addr, addr < s.io.a0.toNat ∨ s.io.a0.toNat + s.io.wbuf.length ≤ addr →
          t.arrayByte addr = s.arrayByte addr)) ∧
      (chip.size < s.io.a0.toNat + s.io.a1.toNat → t.seq.scratch.ok = false ∧ t.transport = s.transport)

/-- 60_exceptions.md section 12, `T.eraseSector`: on the reference chip `ERASE_SECTOR` sets exactly the bytes of the sector
that holds its address to 0xFF (up to the array's end, log 16), keeps the chip busy and changes no other register of it,
and past the end changes nothing and reports `false`. -/
def Obligations.EraseSectorErasesTheArray : Prop :=
  ∀ (s : State) (chip : Chip), s.seq.phase = .e2 → s.seq.busUp = true → s.transport = .reference chip →
    s.config.sectorSize ≠ 0 →
    ∃ t, exec .opEraseSector s = .next t ∧
      (∀ addr, s.seq.scratch.addr.toNat < chip.size → addr < chip.size →
        addr / s.config.sectorSize.toNat = s.seq.scratch.addr.toNat / s.config.sectorSize.toNat →
        t.arrayByte addr = some 0xFF) ∧
      (∀ addr, addr / s.config.sectorSize.toNat ≠ s.seq.scratch.addr.toNat / s.config.sectorSize.toNat →
        t.arrayByte addr = s.arrayByte addr) ∧
      (s.seq.scratch.addr.toNat < chip.size → t.seq.scratch.ok = true ∧
        ∃ m, t.transport = .reference { chip with mem := m, busyReads := chip.seReads }) ∧
      (chip.size ≤ s.seq.scratch.addr.toNat → t.seq.scratch.ok = false ∧ t.transport = s.transport)

/-- 60_exceptions.md section 12: on the reference chip the erase command sets every byte to 0xFF when the latch is set and
nothing is in flight, uses up the latch and keeps the chip busy, and otherwise changes no byte; either way it disarms a
reset, keeps the chip's other registers and answers `true`. -/
def Obligations.ChipEraseErasesTheArray : Prop :=
  ∀ (s : State) (chip : Chip), s.seq.phase = .c2 → s.seq.busUp = true → s.transport = .reference chip →
    s.config.DistinctCommands →
    ∃ t, exec .opChipErase s = .next t ∧ t.seq.scratch.ok = true ∧
      (chip.wel = true → chip.busyReads = 0 →
        (∀ addr, addr < chip.size → t.arrayByte addr = some 0xFF) ∧
        ∃ m, t.transport = .reference
          { chip with mem := m, wel := false, rstArmed := false, busyReads := chip.ceReads }) ∧
      (chip.wel = false ∨ chip.busyReads ≠ 0 →
        s.ArrayKept t ∧ t.transport = .reference { chip with rstArmed := false })
end

