-- ==== Sys2Proof/Laws/State.lean ====
section
/-! SUPPORT. What each shared operation does to each field of the state: one equation per field per operation, true by rfl, so that no later proof unfolds a record update. -/

namespace Sys2Proof.Machine

variable (s : State)

@[simp] theorem State.goto_config (p : Phase) : (s.goto p).config = s.config := rfl
@[simp] theorem State.goto_ctrl (p : Phase) : (s.goto p).ctrl = s.ctrl := rfl
@[simp] theorem State.goto_io (p : Phase) : (s.goto p).io = s.io := rfl
@[simp] theorem State.goto_seq (p : Phase) : (s.goto p).seq = { s.seq with phase := p } := rfl
@[simp] theorem State.goto_transport (p : Phase) : (s.goto p).transport = s.transport := rfl
@[simp] theorem State.goto_trace (p : Phase) : (s.goto p).trace = s.trace := rfl
@[simp] theorem State.goto_inputs (p : Phase) : (s.goto p).inputs = s.inputs := rfl
@[simp] theorem State.goto_draws (p : Phase) : (s.goto p).draws = s.draws := rfl
@[simp] theorem State.goto_polls (p : Phase) : (s.goto p).polls = s.polls := rfl

@[simp] theorem State.withScratch_config (x : Scratch) : (s.withScratch x).config = s.config := rfl
@[simp] theorem State.withScratch_ctrl (x : Scratch) : (s.withScratch x).ctrl = s.ctrl := rfl
@[simp] theorem State.withScratch_io (x : Scratch) : (s.withScratch x).io = s.io := rfl
@[simp] theorem State.withScratch_seq (x : Scratch) : (s.withScratch x).seq = { s.seq with scratch := x } := rfl
@[simp] theorem State.withScratch_transport (x : Scratch) : (s.withScratch x).transport = s.transport := rfl
@[simp] theorem State.withScratch_trace (x : Scratch) : (s.withScratch x).trace = s.trace := rfl
@[simp] theorem State.withScratch_inputs (x : Scratch) : (s.withScratch x).inputs = s.inputs := rfl
@[simp] theorem State.withScratch_draws (x : Scratch) : (s.withScratch x).draws = s.draws := rfl
@[simp] theorem State.withScratch_polls (x : Scratch) : (s.withScratch x).polls = s.polls := rfl

@[simp] theorem State.startAt_config (p : Phase) : (s.startAt p).config = s.config := rfl
@[simp] theorem State.startAt_ctrl (p : Phase) : (s.startAt p).ctrl = s.ctrl := rfl
@[simp] theorem State.startAt_io (p : Phase) : (s.startAt p).io = { s.io with busy := true } := rfl
@[simp] theorem State.startAt_seq (p : Phase) : (s.startAt p).seq = { s.seq with phase := p } := rfl
@[simp] theorem State.startAt_transport (p : Phase) : (s.startAt p).transport = s.transport := rfl
@[simp] theorem State.startAt_trace (p : Phase) : (s.startAt p).trace = s.trace := rfl
@[simp] theorem State.startAt_inputs (p : Phase) : (s.startAt p).inputs = s.inputs := rfl
@[simp] theorem State.startAt_draws (p : Phase) : (s.startAt p).draws = s.draws := rfl
@[simp] theorem State.startAt_polls (p : Phase) : (s.startAt p).polls = s.polls := rfl

@[simp] theorem State.finish_config (st r0 : Word) : (s.finish st r0).config = s.config := rfl
@[simp] theorem State.finish_ctrl (st r0 : Word) : (s.finish st r0).ctrl = s.ctrl := rfl
@[simp] theorem State.finish_io (st r0 : Word) : (s.finish st r0).io = { s.io with st := st, r0 := r0, busy := false } := rfl
@[simp] theorem State.finish_seq (st r0 : Word) : (s.finish st r0).seq = { s.seq with phase := .idle } := rfl
@[simp] theorem State.finish_transport (st r0 : Word) : (s.finish st r0).transport = s.transport := rfl
@[simp] theorem State.finish_trace (st r0 : Word) : (s.finish st r0).trace = s.trace := rfl
@[simp] theorem State.finish_inputs (st r0 : Word) : (s.finish st r0).inputs = s.inputs := rfl
@[simp] theorem State.finish_draws (st r0 : Word) : (s.finish st r0).draws = s.draws := rfl
@[simp] theorem State.finish_polls (st r0 : Word) : (s.finish st r0).polls = s.polls := rfl

@[simp] theorem State.raise_config (e : Failure) (v : Word) : (s.raise e v).config = s.config := rfl
@[simp] theorem State.raise_ctrl (e : Failure) (v : Word) : (s.raise e v).ctrl = s.ctrl := rfl
@[simp] theorem State.raise_io (e : Failure) (v : Word) : (s.raise e v).io = { s.io with st := e.code, r0 := v, busy := false } := rfl
@[simp] theorem State.raise_seq (e : Failure) (v : Word) : (s.raise e v).seq = { s.seq with phase := .idle } := rfl
@[simp] theorem State.raise_transport (e : Failure) (v : Word) : (s.raise e v).transport = s.transport := rfl
@[simp] theorem State.raise_trace (e : Failure) (v : Word) : (s.raise e v).trace = s.trace := rfl
@[simp] theorem State.raise_inputs (e : Failure) (v : Word) : (s.raise e v).inputs = s.inputs := rfl
@[simp] theorem State.raise_draws (e : Failure) (v : Word) : (s.raise e v).draws = s.draws := rfl
@[simp] theorem State.raise_polls (e : Failure) (v : Word) : (s.raise e v).polls = s.polls := rfl

@[simp] theorem State.complete_config (v : Word) : (s.complete v).config = s.config := rfl
@[simp] theorem State.complete_ctrl (v : Word) : (s.complete v).ctrl = s.ctrl := rfl
@[simp] theorem State.complete_io (v : Word) : (s.complete v).io = { s.io with st := 0, r0 := v, busy := false } := rfl
@[simp] theorem State.complete_seq (v : Word) : (s.complete v).seq = { s.seq with phase := .idle } := rfl
@[simp] theorem State.complete_transport (v : Word) : (s.complete v).transport = s.transport := rfl
@[simp] theorem State.complete_trace (v : Word) : (s.complete v).trace = s.trace := rfl
@[simp] theorem State.complete_inputs (v : Word) : (s.complete v).inputs = s.inputs := rfl
@[simp] theorem State.complete_draws (v : Word) : (s.complete v).draws = s.draws := rfl
@[simp] theorem State.complete_polls (v : Word) : (s.complete v).polls = s.polls := rfl

@[simp] theorem State.forgetRbuf_config : (s.forgetRbuf).config = s.config := rfl
@[simp] theorem State.forgetRbuf_ctrl : (s.forgetRbuf).ctrl = s.ctrl := rfl
@[simp] theorem State.forgetRbuf_io : (s.forgetRbuf).io = { s.io with rbuf := Config.freeBytes s.draws } := rfl
@[simp] theorem State.forgetRbuf_seq : (s.forgetRbuf).seq = s.seq := rfl
@[simp] theorem State.forgetRbuf_transport : (s.forgetRbuf).transport = s.transport := rfl
@[simp] theorem State.forgetRbuf_trace : (s.forgetRbuf).trace = s.trace := rfl
@[simp] theorem State.forgetRbuf_inputs : (s.forgetRbuf).inputs = s.inputs := rfl
@[simp] theorem State.forgetRbuf_draws : (s.forgetRbuf).draws = s.draws + 1 := rfl
@[simp] theorem State.forgetRbuf_polls : (s.forgetRbuf).polls = s.polls := rfl

@[simp] theorem State.forgetScratch_config : (s.forgetScratch).config = s.config := rfl
@[simp] theorem State.forgetScratch_ctrl : (s.forgetScratch).ctrl = s.ctrl := rfl
@[simp] theorem State.forgetScratch_io : (s.forgetScratch).io = s.io := rfl
@[simp] theorem State.forgetScratch_seq : (s.forgetScratch).seq = { s.seq with scratch := Config.freeScratch s.draws } := rfl
@[simp] theorem State.forgetScratch_transport : (s.forgetScratch).transport = s.transport := rfl
@[simp] theorem State.forgetScratch_trace : (s.forgetScratch).trace = s.trace := rfl
@[simp] theorem State.forgetScratch_inputs : (s.forgetScratch).inputs = s.inputs := rfl
@[simp] theorem State.forgetScratch_draws : (s.forgetScratch).draws = s.draws + 1 := rfl
@[simp] theorem State.forgetScratch_polls : (s.forgetScratch).polls = s.polls := rfl

@[simp] theorem State.endOk_config (v : Word) : (s.endOk v).config = s.config := rfl
@[simp] theorem State.endOk_ctrl (v : Word) : (s.endOk v).ctrl = s.ctrl := rfl
@[simp] theorem State.endOk_io (v : Word) : (s.endOk v).io = { s.io with st := 0, r0 := v, busy := false, rbuf := Config.freeBytes s.draws } := rfl
@[simp] theorem State.endOk_seq (v : Word) : (s.endOk v).seq = { s.seq with phase := .idle, scratch := Config.freeScratch (s.draws + 1) } := rfl
@[simp] theorem State.endOk_transport (v : Word) : (s.endOk v).transport = s.transport := rfl
@[simp] theorem State.endOk_trace (v : Word) : (s.endOk v).trace = s.trace := rfl
@[simp] theorem State.endOk_inputs (v : Word) : (s.endOk v).inputs = s.inputs := rfl
@[simp] theorem State.endOk_draws (v : Word) : (s.endOk v).draws = s.draws + 2 := rfl
@[simp] theorem State.endOk_polls (v : Word) : (s.endOk v).polls = s.polls := rfl

@[simp] theorem State.endFailed_config (e : Failure) (v : Word) : (s.endFailed e v).config = s.config := rfl
@[simp] theorem State.endFailed_ctrl (e : Failure) (v : Word) : (s.endFailed e v).ctrl = s.ctrl := rfl
@[simp] theorem State.endFailed_io (e : Failure) (v : Word) : (s.endFailed e v).io = { s.io with st := e.code, r0 := v, busy := false, rbuf := Config.freeBytes s.draws } := rfl
@[simp] theorem State.endFailed_seq (e : Failure) (v : Word) : (s.endFailed e v).seq = { s.seq with phase := .idle, scratch := Config.freeScratch (s.draws + 1) } := rfl
@[simp] theorem State.endFailed_transport (e : Failure) (v : Word) : (s.endFailed e v).transport = s.transport := rfl
@[simp] theorem State.endFailed_trace (e : Failure) (v : Word) : (s.endFailed e v).trace = s.trace := rfl
@[simp] theorem State.endFailed_inputs (e : Failure) (v : Word) : (s.endFailed e v).inputs = s.inputs := rfl
@[simp] theorem State.endFailed_draws (e : Failure) (v : Word) : (s.endFailed e v).draws = s.draws + 2 := rfl
@[simp] theorem State.endFailed_polls (e : Failure) (v : Word) : (s.endFailed e v).polls = s.polls := rfl

@[simp] theorem State.endRead_config (b : List Byte) (v : Word) : (s.endRead b v).config = s.config := rfl
@[simp] theorem State.endRead_ctrl (b : List Byte) (v : Word) : (s.endRead b v).ctrl = s.ctrl := rfl
@[simp] theorem State.endRead_io (b : List Byte) (v : Word) : (s.endRead b v).io = { s.io with st := 0, r0 := v, busy := false, rbuf := b } := rfl
@[simp] theorem State.endRead_seq (b : List Byte) (v : Word) : (s.endRead b v).seq = { s.seq with phase := .idle, scratch := Config.freeScratch s.draws } := rfl
@[simp] theorem State.endRead_transport (b : List Byte) (v : Word) : (s.endRead b v).transport = s.transport := rfl
@[simp] theorem State.endRead_trace (b : List Byte) (v : Word) : (s.endRead b v).trace = s.trace := rfl
@[simp] theorem State.endRead_inputs (b : List Byte) (v : Word) : (s.endRead b v).inputs = s.inputs := rfl
@[simp] theorem State.endRead_draws (b : List Byte) (v : Word) : (s.endRead b v).draws = s.draws + 1 := rfl
@[simp] theorem State.endRead_polls (b : List Byte) (v : Word) : (s.endRead b v).polls = s.polls := rfl

@[simp] theorem State.call_config (p : Primitive) : (s.call p).config = s.config := rfl
@[simp] theorem State.call_ctrl (p : Primitive) : (s.call p).ctrl = s.ctrl := rfl
@[simp] theorem State.call_io (p : Primitive) : (s.call p).io = s.io := rfl
@[simp] theorem State.call_seq (p : Primitive) : (s.call p).seq = s.seq := rfl
@[simp] theorem State.call_transport (p : Primitive) : (s.call p).transport = s.transport.after s.config p := rfl
@[simp] theorem State.call_trace (p : Primitive) : (s.call p).trace = s.trace ++ [p.event (s.ask p)] := rfl
@[simp] theorem State.call_inputs (p : Primitive) : (s.call p).inputs = s.inputs := rfl
@[simp] theorem State.call_draws (p : Primitive) : (s.call p).draws = s.draws + 1 + p.asked := rfl
@[simp] theorem State.call_polls (p : Primitive) : (s.call p).polls = s.polls := rfl

@[simp] theorem State.beginBus_config : (s.beginBus).config = s.config := rfl
@[simp] theorem State.beginBus_ctrl : (s.beginBus).ctrl = s.ctrl := rfl
@[simp] theorem State.beginBus_io : (s.beginBus).io = s.io := rfl
@[simp] theorem State.beginBus_seq : (s.beginBus).seq = { s.seq with busUp := true } := rfl
@[simp] theorem State.beginBus_transport : (s.beginBus).transport = s.transport.after s.config .begin := rfl
@[simp] theorem State.beginBus_trace : (s.beginBus).trace = s.trace ++ [.begin] := rfl
@[simp] theorem State.beginBus_inputs : (s.beginBus).inputs = s.inputs := rfl
@[simp] theorem State.beginBus_polls : (s.beginBus).polls = s.polls := rfl

@[simp] theorem State.readIdent_config : (s.readIdent).config = s.config := rfl
@[simp] theorem State.readIdent_ctrl : (s.readIdent).ctrl = s.ctrl := rfl
@[simp] theorem State.readIdent_io : (s.readIdent).io = s.io := rfl
@[simp] theorem State.readIdent_seq : (s.readIdent).seq = { s.seq with scratch := { s.seq.scratch with ident := Ident.ofResponse (s.ask (.readCommand s.config.cmdRdid 3)).bytes } } := rfl
@[simp] theorem State.readIdent_transport : (s.readIdent).transport = s.transport.after s.config (.readCommand s.config.cmdRdid 3) := rfl
@[simp] theorem State.readIdent_trace : (s.readIdent).trace = s.trace ++ [.readCmd s.config.cmdRdid 3 (s.ask (.readCommand s.config.cmdRdid 3)).bytes] := rfl
@[simp] theorem State.readIdent_inputs : (s.readIdent).inputs = s.inputs := rfl
@[simp] theorem State.readIdent_polls : (s.readIdent).polls = s.polls := rfl

@[simp] theorem State.readStatus_config (c : BusCommand) : (s.readStatus c).config = s.config := rfl
@[simp] theorem State.readStatus_ctrl (c : BusCommand) : (s.readStatus c).ctrl = s.ctrl := rfl
@[simp] theorem State.readStatus_io (c : BusCommand) : (s.readStatus c).io = s.io := rfl
@[simp] theorem State.readStatus_seq (c : BusCommand) : (s.readStatus c).seq = { s.seq with scratch := { s.seq.scratch with status := (s.ask (.readCommand (s.config.byteOf c) 1)).bytes.getD 0 0 } } := rfl
@[simp] theorem State.readStatus_transport (c : BusCommand) : (s.readStatus c).transport = s.transport.after s.config (.readCommand (s.config.byteOf c) 1) := rfl
@[simp] theorem State.readStatus_trace (c : BusCommand) : (s.readStatus c).trace = s.trace ++ [.readCmd (s.config.byteOf c) 1 (s.ask (.readCommand (s.config.byteOf c) 1)).bytes] := rfl
@[simp] theorem State.readStatus_inputs (c : BusCommand) : (s.readStatus c).inputs = s.inputs := rfl
@[simp] theorem State.readStatus_polls (c : BusCommand) : (s.readStatus c).polls = s.polls := rfl

@[simp] theorem State.writeStatus_config (c : BusCommand) (b : List Byte) : (s.writeStatus c b).config = s.config := rfl
@[simp] theorem State.writeStatus_ctrl (c : BusCommand) (b : List Byte) : (s.writeStatus c b).ctrl = s.ctrl := rfl
@[simp] theorem State.writeStatus_io (c : BusCommand) (b : List Byte) : (s.writeStatus c b).io = s.io := rfl
@[simp] theorem State.writeStatus_seq (c : BusCommand) (b : List Byte) : (s.writeStatus c b).seq = s.seq := rfl
@[simp] theorem State.writeStatus_transport (c : BusCommand) (b : List Byte) : (s.writeStatus c b).transport = s.transport.after s.config (.writeCommand (s.config.byteOf c) b) := rfl
@[simp] theorem State.writeStatus_trace (c : BusCommand) (b : List Byte) : (s.writeStatus c b).trace = s.trace ++ [.writeCmd (s.config.byteOf c) b] := rfl
@[simp] theorem State.writeStatus_inputs (c : BusCommand) (b : List Byte) : (s.writeStatus c b).inputs = s.inputs := rfl
@[simp] theorem State.writeStatus_polls (c : BusCommand) (b : List Byte) : (s.writeStatus c b).polls = s.polls := rfl

@[simp] theorem State.runCommand_config (c : BusCommand) : (s.runCommand c).config = s.config := rfl
@[simp] theorem State.runCommand_ctrl (c : BusCommand) : (s.runCommand c).ctrl = s.ctrl := rfl
@[simp] theorem State.runCommand_io (c : BusCommand) : (s.runCommand c).io = s.io := rfl
@[simp] theorem State.runCommand_seq (c : BusCommand) : (s.runCommand c).seq = { s.seq with scratch := { s.seq.scratch with ok := (s.ask (.runCommand (s.config.byteOf c))).ok } } := rfl
@[simp] theorem State.runCommand_transport (c : BusCommand) : (s.runCommand c).transport = s.transport.after s.config (.runCommand (s.config.byteOf c)) := rfl
@[simp] theorem State.runCommand_trace (c : BusCommand) : (s.runCommand c).trace = s.trace ++ [.runCmd (s.config.byteOf c) (s.ask (.runCommand (s.config.byteOf c))).ok] := rfl
@[simp] theorem State.runCommand_inputs (c : BusCommand) : (s.runCommand c).inputs = s.inputs := rfl
@[simp] theorem State.runCommand_polls (c : BusCommand) : (s.runCommand c).polls = s.polls := rfl

@[simp] theorem State.memRead_config (a n : Word) : (s.memRead a n).config = s.config := rfl
@[simp] theorem State.memRead_ctrl (a n : Word) : (s.memRead a n).ctrl = s.ctrl := rfl
@[simp] theorem State.memRead_io (a n : Word) : (s.memRead a n).io = s.io := rfl
@[simp] theorem State.memRead_seq (a n : Word) : (s.memRead a n).seq = { s.seq with scratch := { s.seq.scratch with ok := (s.ask (.memRead a n)).ok, bytes := (s.ask (.memRead a n)).bytes } } := rfl
@[simp] theorem State.memRead_transport (a n : Word) : (s.memRead a n).transport = s.transport.after s.config (.memRead a n) := rfl
@[simp] theorem State.memRead_trace (a n : Word) : (s.memRead a n).trace = s.trace ++ [.readMem a n (s.ask (.memRead a n)).ok (s.ask (.memRead a n)).bytes] := rfl
@[simp] theorem State.memRead_inputs (a n : Word) : (s.memRead a n).inputs = s.inputs := rfl
@[simp] theorem State.memRead_polls (a n : Word) : (s.memRead a n).polls = s.polls := rfl

@[simp] theorem State.memWrite_config : (s.memWrite).config = s.config := rfl
@[simp] theorem State.memWrite_ctrl : (s.memWrite).ctrl = s.ctrl := rfl
@[simp] theorem State.memWrite_io : (s.memWrite).io = s.io := rfl
@[simp] theorem State.memWrite_transport : (s.memWrite).transport = s.transport.after s.config (.memWrite s.io.a0 s.writeData) := rfl
@[simp] theorem State.memWrite_inputs : (s.memWrite).inputs = s.inputs := rfl
@[simp] theorem State.memWrite_polls : (s.memWrite).polls = s.polls := rfl

@[simp] theorem State.eraseSector_config (a : Word) : (s.eraseSector a).config = s.config := rfl
@[simp] theorem State.eraseSector_ctrl (a : Word) : (s.eraseSector a).ctrl = s.ctrl := rfl
@[simp] theorem State.eraseSector_io (a : Word) : (s.eraseSector a).io = s.io := rfl
@[simp] theorem State.eraseSector_seq (a : Word) : (s.eraseSector a).seq = { s.seq with scratch := { s.seq.scratch with ok := (s.ask (.eraseSector a)).ok } } := rfl
@[simp] theorem State.eraseSector_transport (a : Word) : (s.eraseSector a).transport = s.transport.after s.config (.eraseSector a) := rfl
@[simp] theorem State.eraseSector_trace (a : Word) : (s.eraseSector a).trace = s.trace ++ [.eraseSector a (s.ask (.eraseSector a)).ok] := rfl
@[simp] theorem State.eraseSector_inputs (a : Word) : (s.eraseSector a).inputs = s.inputs := rfl
@[simp] theorem State.eraseSector_polls (a : Word) : (s.eraseSector a).polls = s.polls := rfl

@[simp] theorem State.delay_config (us : Nat) : (s.delay us).config = s.config := rfl
@[simp] theorem State.delay_ctrl (us : Nat) : (s.delay us).ctrl = s.ctrl := rfl
@[simp] theorem State.delay_io (us : Nat) : (s.delay us).io = s.io := rfl
@[simp] theorem State.delay_seq (us : Nat) : (s.delay us).seq = s.seq := rfl
@[simp] theorem State.delay_transport (us : Nat) : (s.delay us).transport = s.transport := rfl
@[simp] theorem State.delay_trace (us : Nat) : (s.delay us).trace = s.trace ++ [.delay us] := rfl
@[simp] theorem State.delay_inputs (us : Nat) : (s.delay us).inputs = s.inputs := rfl
@[simp] theorem State.delay_draws (us : Nat) : (s.delay us).draws = s.draws := rfl
@[simp] theorem State.delay_polls (us : Nat) : (s.delay us).polls = s.polls := rfl

@[simp] theorem State.hostWrite_config (r : Request) : (s.hostWrite r).config = s.config := rfl
@[simp] theorem State.hostWrite_ctrl (r : Request) : (s.hostWrite r).ctrl = s.ctrl := rfl
@[simp] theorem State.hostWrite_io (r : Request) : (s.hostWrite r).io = { s.io with op := r.op, a0 := r.a0, a1 := r.a1, wbuf := r.wbuf } := rfl
@[simp] theorem State.hostWrite_seq (r : Request) : (s.hostWrite r).seq = s.seq := rfl
@[simp] theorem State.hostWrite_transport (r : Request) : (s.hostWrite r).transport = s.transport := rfl
@[simp] theorem State.hostWrite_trace (r : Request) : (s.hostWrite r).trace = s.trace := rfl
@[simp] theorem State.hostWrite_inputs (r : Request) : (s.hostWrite r).inputs = s.inputs := rfl
@[simp] theorem State.hostWrite_draws (r : Request) : (s.hostWrite r).draws = s.draws := rfl
@[simp] theorem State.hostWrite_polls (r : Request) : (s.hostWrite r).polls = s.polls := rfl

@[simp] theorem State.illegalRequest_config : (s.illegalRequest).config = s.config := rfl
@[simp] theorem State.illegalRequest_ctrl : (s.illegalRequest).ctrl = s.ctrl := rfl
@[simp] theorem State.illegalRequest_io : (s.illegalRequest).io = { s.io with st := 5, r0 := 0, busy := false } := rfl
@[simp] theorem State.illegalRequest_seq : (s.illegalRequest).seq = { s.seq with phase := .idle } := rfl
@[simp] theorem State.illegalRequest_transport : (s.illegalRequest).transport = s.transport := rfl
@[simp] theorem State.illegalRequest_trace : (s.illegalRequest).trace = s.trace := rfl
@[simp] theorem State.illegalRequest_inputs : (s.illegalRequest).inputs = s.inputs := rfl
@[simp] theorem State.illegalRequest_draws : (s.illegalRequest).draws = s.draws := rfl
@[simp] theorem State.illegalRequest_polls : (s.illegalRequest).polls = s.polls := rfl

@[simp] theorem State.engineReset_config : (s.engineReset).config = s.config := rfl
@[simp] theorem State.engineReset_ctrl : (s.engineReset).ctrl = Controller.atReset s.config := rfl
@[simp] theorem State.engineReset_io : (s.engineReset).io = HostInterface.atReset := rfl
@[simp] theorem State.engineReset_seq : (s.engineReset).seq = Sequencer.atReset := rfl
@[simp] theorem State.engineReset_transport : (s.engineReset).transport = s.transport := rfl
@[simp] theorem State.engineReset_trace : (s.engineReset).trace = s.trace := rfl
@[simp] theorem State.engineReset_inputs : (s.engineReset).inputs = s.inputs := rfl
@[simp] theorem State.engineReset_draws : (s.engineReset).draws = s.draws := rfl
@[simp] theorem State.engineReset_polls : (s.engineReset).polls = 0 := rfl

end Sys2Proof.Machine
end

