-- ==== Sys2Proof/Laws/Memory.lean ====
section
/-! SUPPORT. Laws of the reference chip's array: read after write, every other byte left alone, and the canonical form kept by every operation. -/

namespace Sys2Proof.Machine

theorem cellAt_putCell_same (addr : Nat) (b : Byte) (cells : List Host.Cell) :
    cellAt addr (putCell addr b cells) = some b := by
  induction cells with
  | nil => simp [putCell, cellAt]
  | cons c rest ih =>
    obtain ⟨a, v⟩ := c
    by_cases h1 : addr < a
    · simp [putCell, h1, cellAt]
    · by_cases h2 : a = addr
      · simp [putCell, h2, cellAt]
      · simp [putCell, h1, h2, cellAt, ih]

theorem cellAt_putCell_other {addr k : Nat} (hne : k ≠ addr) (b : Byte) (cells : List Host.Cell) :
    cellAt k (putCell addr b cells) = cellAt k cells := by
  induction cells with
  | nil => simp [putCell, cellAt, hne.symm]
  | cons c rest ih =>
    obtain ⟨a, v⟩ := c
    by_cases h1 : addr < a
    · simp [putCell, h1, cellAt, hne.symm]
    · by_cases h2 : a = addr
      · subst h2; simp [putCell, cellAt, hne.symm]
      · simp [putCell, h1, h2, cellAt, ih]

theorem cellAt_dropCell_same (addr : Nat) (cells : List Host.Cell) : cellAt addr (dropCell addr cells) = none := by
  induction cells with
  | nil => rfl
  | cons c rest ih =>
    obtain ⟨a, v⟩ := c
    by_cases h : a = addr <;> simp [dropCell, h, cellAt, ih]

theorem cellAt_dropCell_other {addr k : Nat} (hne : k ≠ addr) (cells : List Host.Cell) :
    cellAt k (dropCell addr cells) = cellAt k cells := by
  induction cells with
  | nil => rfl
  | cons c rest ih =>
    obtain ⟨a, v⟩ := c
    by_cases h : a = addr
    · subst h; simp [dropCell, cellAt, hne.symm, ih]
    · simp [dropCell, h, cellAt, ih]

/-- A read after a write to the same address gives the byte written. -/
@[simp] theorem read_write_same (m : Memory) (addr : Nat) (b : Byte) : (m.write addr b).read addr = b := by
  by_cases h : b = m.fill
  · simp [Memory.write, h, Memory.read, cellAt_dropCell_same]
  · simp [Memory.write, h, Memory.read, cellAt_putCell_same]

/-- A write leaves every other address alone. -/
theorem read_write_other {addr k : Nat} (hne : k ≠ addr) (m : Memory) (b : Byte) :
    (m.write addr b).read k = m.read k := by
  by_cases h : b = m.fill
  · simp [Memory.write, h, Memory.read, cellAt_dropCell_other hne]
  · simp [Memory.write, h, Memory.read, cellAt_putCell_other hne]

/-- R240, `MemWrite`: outside the programmed range nothing changes. -/
theorem read_program_outside (data : List Byte) (m : Memory) (addr k : Nat)
    (h : k < addr ∨ addr + data.length ≤ k) : (m.program addr data).read k = m.read k := by
  induction data generalizing m addr with
  | nil => rfl
  | cons v vs ih =>
    simp only [List.length_cons] at h
    rw [Memory.program, ih _ _ (by omega), read_write_other (by omega)]

/-- R240, `MemWrite`: inside the range the old byte AND the byte sent. -/
theorem read_program_inside (data : List Byte) (m : Memory) (addr i : Nat) (h : i < data.length) :
    (m.program addr data).read (addr + i) = m.read (addr + i) &&& data[i] := by
  induction data generalizing m addr i with
  | nil => simp at h
  | cons v vs ih =>
    cases i with
    | zero => rw [Memory.program, read_program_outside _ _ _ _ (by omega)]; simp
    | succ i =>
      have := ih (m.write addr (m.read addr &&& v)) (addr + 1) i (by simpa using h)
      rw [Memory.program, show addr + (i + 1) = addr + 1 + i by omega, this, read_write_other (by omega)]
      simp

theorem cellAt_append (k : Nat) (l r : List Host.Cell) :
    cellAt k (l ++ r) = (cellAt k l).or (cellAt k r) := by
  induction l with
  | nil => simp [cellAt]
  | cons c rest ih => obtain ⟨a, v⟩ := c; by_cases h : a = k <;> simp [cellAt, h, ih]

theorem cellAt_filter (k : Nat) (q : Host.Cell → Bool) (keep : Prop) [Decidable keep]
    (hq : ∀ v, q (k, v) = decide keep) (l : List Host.Cell) :
    cellAt k (l.filter q) = if keep then cellAt k l else none := by
  induction l with
  | nil => simp [cellAt]
  | cons c rest ih =>
    obtain ⟨a, v⟩ := c
    by_cases h : a = k
    · subst h
      by_cases hk : keep <;> simp [List.filter, hq, hk, cellAt, ih]
    · by_cases hq' : q (a, v) <;> simp [List.filter, hq', cellAt, h, ih]

theorem cellAt_span_inside (addr n i : Nat) (b : Byte) (h : i < n) :
    cellAt (addr + i) ((List.range n).map fun j => (addr + j, b)) = some b := by
  induction n with
  | zero => omega
  | succ n ih =>
    rw [List.range_succ, List.map_append, cellAt_append]
    by_cases hi : i < n
    · simp [ih hi]
    · have : i = n := by omega
      subst this
      cases hc : cellAt (addr + i) ((List.range i).map fun j => (addr + j, b)) with
      | none => simp [cellAt]
      | some v =>
        have : ∀ l : List Nat, cellAt (addr + i) (l.map fun j => (addr + j, b)) = some v → v = b := by
          intro l
          induction l with
          | nil => simp [cellAt]
          | cons x xs ihx => simp only [List.map_cons, cellAt]; split <;> simp_all
        simp [this _ hc]

theorem cellAt_span_outside (addr n k : Nat) (b : Byte) (h : k < addr ∨ addr + n ≤ k) :
    cellAt k ((List.range n).map fun j => (addr + j, b)) = none := by
  induction n with
  | zero => rfl
  | succ n ih =>
    rw [List.range_succ, List.map_append, cellAt_append, ih (by omega)]
    simp [cellAt]; omega

/-- Inside the filled range every byte is the one filled in. -/
theorem read_fillRange_inside (m : Memory) (addr n i : Nat) (b : Byte) (h : i < n) :
    (m.fillRange addr n b).read (addr + i) = b := by
  simp only [Memory.fillRange, Memory.read, cellAt_append]
  rw [cellAt_filter (addr + i) _ (addr + i < addr) (fun _ => rfl),
    cellAt_filter (addr + i) _ (addr + n ≤ addr + i) (fun _ => rfl)]
  have h1 : ¬ addr + i < addr := by omega
  have h2 : ¬ addr + n ≤ addr + i := by omega
  by_cases hb : b = m.fill
  · simp [h2, hb, cellAt]
  · simp [h2, hb, cellAt_span_inside _ _ _ _ h]

/-- Outside it every byte is as before. -/
theorem read_fillRange_outside (m : Memory) (addr n k : Nat) (b : Byte) (h : k < addr ∨ addr + n ≤ k) :
    (m.fillRange addr n b).read k = m.read k := by
  simp only [Memory.fillRange, Memory.read, cellAt_append]
  rw [cellAt_filter k _ (k < addr) (fun _ => rfl), cellAt_filter k _ (addr + n ≤ k) (fun _ => rfl)]
  have hmid : cellAt k (if b = m.fill then [] else (List.range n).map fun j => (addr + j, b)) = none := by
    split
    · rfl
    · exact cellAt_span_outside _ _ _ _ h
  rw [hmid]
  by_cases h1 : k < addr
  · have h2 : ¬ addr + n ≤ k := by omega
    simp [h1, h2]
  · have h2 : addr + n ≤ k := by omega
    simp [h1, h2]

theorem uniform_wf (b : Byte) : (Memory.uniform b).wf := by
  simp [Memory.wf, Memory.uniform]

@[simp] theorem uniform_read (b : Byte) (k : Nat) : (Memory.uniform b).read k = b := rfl

theorem mem_putCell {addr : Nat} {b : Byte} {cells : List Host.Cell} {c : Host.Cell}
    (h : c ∈ putCell addr b cells) : c = (addr, b) ∨ c ∈ cells := by
  induction cells with
  | nil => simpa [putCell] using h
  | cons d rest ih =>
    obtain ⟨a, v⟩ := d
    by_cases h1 : addr < a
    · simpa [putCell, h1] using h
    · by_cases h2 : a = addr
      · simp only [putCell, h2, if_true, if_false, lt_irrefl] at h
        rcases List.mem_cons.1 h with h | h
        · exact .inl h
        · exact .inr (List.mem_cons_of_mem _ h)
      · simp only [putCell, h1, h2, if_false] at h
        rcases List.mem_cons.1 h with h | h
        · exact .inr (h ▸ List.mem_cons_self)
        · rcases ih h with h | h
          · exact .inl h
          · exact .inr (List.mem_cons_of_mem _ h)

theorem putCell_rising {addr : Nat} {b : Byte} {cells : List Host.Cell}
    (h : cells.Pairwise (fun c d => c.1 < d.1)) : (putCell addr b cells).Pairwise (fun c d => c.1 < d.1) := by
  induction cells with
  | nil => simp [putCell]
  | cons d rest ih =>
    obtain ⟨a, v⟩ := d
    obtain ⟨hd, hr⟩ := List.pairwise_cons.1 h
    by_cases h1 : addr < a
    · simp only [putCell, h1, if_true]
      refine List.pairwise_cons.2 ⟨fun c hc => ?_, h⟩
      rcases List.mem_cons.1 hc with hc | hc
      · simpa [hc] using h1
      · exact lt_trans h1 (hd c hc)
    · by_cases h2 : a = addr
      · subst h2
        simp only [putCell, h1, if_true, if_false]
        exact List.pairwise_cons.2 ⟨hd, hr⟩
      · simp only [putCell, h1, h2, if_false]
        refine List.pairwise_cons.2 ⟨fun c hc => ?_, ih hr⟩
        rcases mem_putCell hc with hc | hc
        · subst hc; show a < addr; omega
        · exact hd c hc

theorem dropCell_sublist (addr : Nat) (cells : List Host.Cell) : (dropCell addr cells).Sublist cells := by
  induction cells with
  | nil => exact List.Sublist.refl _
  | cons d rest ih =>
    obtain ⟨a, v⟩ := d
    by_cases h : a = addr
    · simp only [dropCell, h, if_true]; exact ih.cons _
    · simp only [dropCell, h, if_false]; exact ih.cons_cons _

/-- A write keeps the canonical form. -/
theorem write_wf {m : Memory} (h : m.wf) (addr : Nat) (b : Byte) : (m.write addr b).wf := by
  by_cases hb : b = m.fill
  · simp only [Memory.write, hb, if_true]
    exact ⟨h.1.sublist (dropCell_sublist _ _), fun c hc => h.2 c ((dropCell_sublist _ _).subset hc)⟩
  · simp only [Memory.write, hb, if_false]
    refine ⟨putCell_rising h.1, fun c hc => ?_⟩
    rcases mem_putCell hc with hc | hc
    · subst hc; exact hb
    · exact h.2 c hc

theorem program_wf {m : Memory} (h : m.wf) (addr : Nat) (data : List Byte) : (m.program addr data).wf := by
  induction data generalizing m addr with
  | nil => exact h
  | cons v vs ih => exact ih (write_wf h _ _) _

theorem fillRange_wf {m : Memory} (h : m.wf) (addr n : Nat) (b : Byte) : (m.fillRange addr n b).wf := by
  have hspan : ((List.range n).map fun i => (addr + i, b)).Pairwise (fun c d : Host.Cell => c.1 < d.1) := by
    rw [List.pairwise_map]
    exact List.pairwise_lt_range.imp (fun hij => by simpa using hij)
  refine ⟨?_, ?_⟩
  · simp only [Memory.fillRange]
    rw [List.append_assoc, List.pairwise_append, List.pairwise_append]
    refine ⟨h.1.filter _, ⟨?_, h.1.filter _, ?_⟩, ?_⟩
    · split
      · exact List.Pairwise.nil
      · exact hspan
    · intro c hc d hd
      simp only [List.mem_filter, decide_eq_true_eq] at hd
      split at hc
      · simp at hc
      · simp only [List.mem_map, List.mem_range] at hc
        obtain ⟨i, hi, rfl⟩ := hc
        show addr + i < d.1
        omega
    · intro c hc d hd
      simp only [List.mem_filter, decide_eq_true_eq] at hc
      rcases List.mem_append.1 hd with hd | hd
      · split at hd
        · simp at hd
        · simp only [List.mem_map, List.mem_range] at hd
          obtain ⟨i, hi, rfl⟩ := hd
          show c.1 < addr + i
          omega
      · simp only [List.mem_filter, decide_eq_true_eq] at hd
        omega
  · intro c hc
    simp only [Memory.fillRange, List.mem_append, List.mem_filter] at hc
    rcases hc with (hc | hc) | hc
    · exact h.2 c hc.1
    · split at hc
      · simp at hc
      · rename_i hb
        simp only [List.mem_map] at hc
        obtain ⟨i, -, rfl⟩ := hc
        exact hb
    · exact h.2 c hc.1

theorem Chip.eraseAll_wf {chip : Chip} (h : chip.mem.wf) : chip.eraseAll.mem.wf := by
  by_cases hc : chip.accepts = true
  · simpa [Chip.eraseAll, hc] using uniform_wf 0xFF
  · simpa [Chip.eraseAll, hc] using h

/-- Every command and every memory primitive keeps the reference chip's array canonical. -/
theorem Chip.after_wf {chip : Chip} (h : chip.mem.wf) (c : Config) (p : Primitive) : (chip.after c p).mem.wf := by
  cases p with
  | begin => exact h
  | readCommand op n =>
    simp only [Chip.after, Chip.afterRead, Chip.disarm]
    split <;> exact h
  | writeCommand op payload =>
    simp only [Chip.after, Chip.afterWrite, Chip.disarm, Chip.spendWrite]
    split
    · split <;> exact h
    · exact h
  | runCommand op =>
    simp only [Chip.after, Chip.afterRun, Chip.resetIfArmed]
    repeat' split
    all_goals first | exact h | exact Chip.eraseAll_wf h
  | memRead addr n => exact h
  | memWrite addr data =>
    simp only [Chip.after, Chip.afterProgram]
    split
    · exact program_wf h _ _
    · exact h
  | eraseSector addr =>
    simp only [Chip.after, Chip.afterErase]
    split
    · exact fillRange_wf h _ _ _
    · exact h

/-- The array stays canonical whatever the transport and the primitive. -/
theorem Transport.after_memoryWf {t : Transport} (h : t.memoryWf) (c : Config) (p : Primitive) :
    (t.after c p).memoryWf := by
  cases t with
  | oracle => trivial
  | scripted answers => trivial
  | reference chip => exact Chip.after_wf h c p

/-- R240, `MemRead`: `n` bytes. -/
@[simp] theorem readRange_length (m : Memory) (addr n : Nat) : (m.readRange addr n).length = n := by
  induction n generalizing addr with
  | zero => rfl
  | succ n ih => simp [Memory.readRange, ih]

/-- R240, `MemRead`: byte `i` is the array's at `addr + i`. -/
theorem readRange_getElem (m : Memory) (addr n : Nat) {i : Nat} (h : i < (m.readRange addr n).length) :
    (m.readRange addr n)[i] = m.read (addr + i) := by
  induction n generalizing addr i with
  | zero => simp at h
  | succ n ih =>
    cases i with
    | zero => rfl
    | succ i =>
      simp only [Memory.readRange, List.getElem_cons_succ, ih]
      congr 1
      omega

end Sys2Proof.Machine
end

