-- ==== Sys2Proof/Laws/PerInstr.lean ====
section
/-! SUPPORT. The round trip, instruction by instruction: decoding what the encoder writes gives the instruction back. -/

namespace Sys2Proof

/-- R8: with distinct command bytes, a command's byte names that command. -/
theorem commandOf_byteOf {c : Config} (h : c.DistinctCommands) (k : BusCommand) : c.commandOf (c.byteOf k) = some k := by
  simp only [Config.DistinctCommands, Config.commandBytes, List.nodup_cons, List.mem_cons, not_or, List.not_mem_nil,
    not_false_eq_true, and_true] at h
  obtain ⟨h1, h2, h3, h4, h5, h6, h7, h8, h9, -⟩ := h
  cases k <;> simp_all [Config.commandOf, Config.byteOf, eq_comm]

/-- A byte that names a command is that command's byte. -/
theorem byteOf_of_commandOf {c : Config} {b : Byte} {k : BusCommand} (h : c.commandOf b = some k) : c.byteOf k = b := by
  unfold Config.commandOf at h
  repeat' split at h
  all_goals first | (cases h; simp_all [Config.byteOf]) | cases h

end Sys2Proof

namespace Sys2Proof.Laws.RoundTrip

/-- Decoding the encoding of a well-formed instruction, in its own space, gives it back. -/
def Statement (i : Instr) : Prop :=
  ∀ c : Config, c.DistinctCommands → i.wf = true → decode c i.space (encode c i) = .ok i

theorem opInitialize : Statement .opInitialize := fun _ _ _ => rfl
theorem opReadBuffer : Statement .opReadBuffer := fun _ _ _ => rfl
theorem opWriteBuffer : Statement .opWriteBuffer := fun _ _ _ => rfl
theorem opRead8 : Statement .opRead8 := fun _ _ _ => rfl
theorem opRead16 : Statement .opRead16 := fun _ _ _ => rfl
theorem opRead32 : Statement .opRead32 := fun _ _ _ => rfl
theorem opChipErase : Statement .opChipErase := fun _ _ _ => rfl
theorem opEraseSector : Statement .opEraseSector := fun _ _ _ => rfl
theorem opEraseBlock : Statement .opEraseBlock := fun _ _ _ => rfl
theorem opReadMfrDevId : Statement .opReadMfrDevId := fun _ _ _ => rfl
theorem opReadJedecId : Statement .opReadJedecId := fun _ _ _ => rfl
theorem opGetTotalSize : Statement .opGetTotalSize := fun _ _ _ => rfl
theorem opGetPageSize : Statement .opGetPageSize := fun _ _ _ => rfl
theorem opGetPageCount : Statement .opGetPageCount := fun _ _ _ => rfl
theorem opReadStatus1 : Statement .opReadStatus1 := fun _ _ _ => rfl
theorem opReadStatus2 : Statement .opReadStatus2 := fun _ _ _ => rfl
theorem opWriteEnable : Statement .opWriteEnable := fun _ _ _ => rfl

theorem cmdRdid : Statement .cmdRdid := by
  intro c h _
  simp only [decode, encode, Instr.space, decodeBus, show c.cmdRdid = c.byteOf .rdid from rfl, commandOf_byteOf h]
  rfl

theorem cmdRdsr1 : Statement .cmdRdsr1 := by
  intro c h _
  simp only [decode, encode, Instr.space, decodeBus, show c.cmdRdsr1 = c.byteOf .rdsr1 from rfl, commandOf_byteOf h]
  rfl

theorem cmdRdsr2 : Statement .cmdRdsr2 := by
  intro c h _
  simp only [decode, encode, Instr.space, decodeBus, show c.cmdRdsr2 = c.byteOf .rdsr2 from rfl, commandOf_byteOf h]
  rfl

theorem cmdWrsr1 (payload : List Byte) : Statement (.cmdWrsr1 payload) := by
  intro c h hwf
  simp only [decode, encode, Instr.space, decodeBus, show c.cmdWrsr1 = c.byteOf .wrsr1 from rfl, commandOf_byteOf h]
  match payload, hwf with
  | [b0], _ => rfl
  | [b0, b1], _ => rfl

theorem cmdWrsr2 (payload : List Byte) : Statement (.cmdWrsr2 payload) := by
  intro c h hwf
  simp only [decode, encode, Instr.space, decodeBus, show c.cmdWrsr2 = c.byteOf .wrsr2 from rfl, commandOf_byteOf h]
  match payload, hwf with
  | [b0], _ => rfl

theorem cmdWren : Statement .cmdWren := by
  intro c h _
  simp only [decode, encode, Instr.space, decodeBus, show c.cmdWren = c.byteOf .wren from rfl, commandOf_byteOf h]
  rfl

theorem cmdWrdi : Statement .cmdWrdi := by
  intro c h _
  simp only [decode, encode, Instr.space, decodeBus, show c.cmdWrdi = c.byteOf .wrdi from rfl, commandOf_byteOf h]
  rfl

theorem cmdRsten : Statement .cmdRsten := by
  intro c h _
  simp only [decode, encode, Instr.space, decodeBus, show c.cmdRsten = c.byteOf .rsten from rfl, commandOf_byteOf h]
  rfl

theorem cmdRst : Statement .cmdRst := by
  intro c h _
  simp only [decode, encode, Instr.space, decodeBus, show c.cmdRst = c.byteOf .rst from rfl, commandOf_byteOf h]
  rfl

theorem cmdCe : Statement .cmdCe := by
  intro c h _
  simp only [decode, encode, Instr.space, decodeBus, show c.cmdCe = c.byteOf .ce from rfl, commandOf_byteOf h]
  rfl

end Sys2Proof.Laws.RoundTrip
end

