-- ==== Sys2Proof/Laws/Transport.lean ====
section
/-! SUPPORT. What the transport can answer (20_memory.md R63): exactly the bytes asked for, a script's own answers, the reference chip's own. -/

namespace Sys2Proof.Machine

/-- R63: bytes of exactly the length asked. -/
@[simp] theorem fit_length (d n : Nat) (bytes : List Byte) : (fit d n bytes).length = n := by
  induction n generalizing d bytes with
  | zero => rfl
  | succ n ih => cases bytes <;> simp [fit, ih]

/-- An answer that already has the length asked is handed over unchanged. -/
theorem fit_of_length {n : Nat} {bytes : List Byte} (h : bytes.length = n) (d : Nat) : fit d n bytes = bytes := by
  induction n generalizing d bytes with
  | zero => simp_all [fit]
  | succ n ih =>
    cases bytes with
    | nil => simp at h
    | cons b bs => simp only [List.length_cons, Nat.add_right_cancel_iff] at h; simp [fit, ih h]

@[simp] theorem fit_self (d : Nat) (bytes : List Byte) : fit d bytes.length bytes = bytes := fit_of_length rfl d

@[simp] theorem ask_bytes_length (p : Primitive) (s : State) : (s.ask p).bytes.length = p.asked := by
  simp [State.ask]

theorem exists_of_length_one {l : List Byte} (h : l.length = 1) : l = [l.getD 0 0] := by
  obtain ⟨b, rfl⟩ := List.length_eq_one_iff.1 h
  rfl

/-- A status read answers one byte. -/
theorem ask_readCommand_one (op : Byte) (s : State) :
    (s.ask (.readCommand op 1)).bytes = [(s.ask (.readCommand op 1)).bytes.getD 0 0] :=
  exists_of_length_one (by simp [Primitive.asked])

/-- A script answers with its first entry, fitted. -/
theorem ask_scripted {s : State} {a : Answer} {rest : List Answer} (h : s.transport = .scripted (a :: rest))
    (p : Primitive) : s.ask p = ⟨a.ok, fit (s.draws + 1) p.asked a.bytes⟩ := by
  simp [State.ask, Transport.rawAnswer, h]

/-- An entry of the right length is answered as it stands. -/
theorem ask_scripted_exact {s : State} {a : Answer} {rest : List Answer} (h : s.transport = .scripted (a :: rest))
    {p : Primitive} (hl : a.bytes.length = p.asked) : s.ask p = a := by
  rw [ask_scripted h, fit_of_length hl]

theorem after_scripted {c : Config} {p : Primitive} (hp : p.answers = true) (a : Answer) (rest : List Answer) :
    (Transport.scripted (a :: rest)).after c p = .scripted rest := by
  simp [Transport.after, hp]

/-- Once the bus is up the reference chip answers for itself. -/
theorem ask_reference {s : State} {chip : Chip} (h : s.transport = .reference chip) (hb : s.seq.busUp = true)
    (p : Primitive) :
    s.ask p = ⟨(chip.answer s.config p).ok, fit (s.draws + 1) p.asked (chip.answer s.config p).bytes⟩ := by
  simp [State.ask, Transport.rawAnswer, h, hb]

/-- R240, `MemRead`: inside the array, `true` and its bytes. -/
theorem ask_memRead_reference {s : State} {chip : Chip} (h : s.transport = .reference chip) (hb : s.seq.busUp = true)
    {addr n : Word} (hn : addr.toNat + n.toNat ≤ chip.size) :
    s.ask (.memRead addr n) = ⟨true, chip.mem.readRange addr.toNat n.toNat⟩ := by
  have ha : chip.answer s.config (.memRead addr n) = ⟨true, chip.mem.readRange addr.toNat n.toNat⟩ := if_pos hn
  rw [ask_reference h hb, ha, fit_of_length (by exact readRange_length ..)]

/-- R240, `MemRead`: past the end, `false`. -/
theorem ask_memRead_past {s : State} {chip : Chip} (h : s.transport = .reference chip) (hb : s.seq.busUp = true)
    {addr n : Word} (hn : chip.size < addr.toNat + n.toNat) : (s.ask (.memRead addr n)).ok = false := by
  have ha : chip.answer s.config (.memRead addr n) = ⟨false, []⟩ := if_neg (Nat.not_le.2 hn)
  rw [ask_reference h hb, ha]

/-- R240, `MemWrite`: `true` exactly when the bytes lie inside the array. -/
theorem ask_memWrite_reference {s : State} {chip : Chip} (h : s.transport = .reference chip) (hb : s.seq.busUp = true)
    (addr : Word) (data : List Byte) :
    (s.ask (.memWrite addr data)).ok = decide (addr.toNat + data.length ≤ chip.size) := by
  rw [ask_reference h hb]
  rfl

/-- R240, `T.eraseSector`: `true` exactly when the address lies inside the array. -/
theorem ask_eraseSector_reference {s : State} {chip : Chip} (h : s.transport = .reference chip)
    (hb : s.seq.busUp = true) (addr : Word) : (s.ask (.eraseSector addr)).ok = decide (addr.toNat < chip.size) := by
  rw [ask_reference h hb]
  rfl

theorem after_reference (chip : Chip) (c : Config) (p : Primitive) :
    (Transport.reference chip).after c p = .reference (chip.after c p) := rfl

/-- The `a1` bytes of `WBUF` are `WBUF` itself when the host keeps R23. -/
theorem writeData_of_length {s : State} (h : s.io.wbuf.length = s.io.a1.toNat) : s.writeData = s.io.wbuf :=
  fit_of_length h s.draws

@[simp] theorem writeData_length (s : State) : s.writeData.length = s.io.a1.toNat := by
  simp [State.writeData]

end Sys2Proof.Machine
end

