-- ==== Sys2Proof/Laws/Step.lean ====
section
/-! SUPPORT. Inversion lemmas: everything a busy-poll, an instruction and a step of the machine can do when they answer a next state. -/

namespace Sys2Proof.Machine

/-- R183: everything one pass of the busy-poll can do. -/
theorem poll_cases {c : BusCommand} {mask : Byte} {again after : Phase} {s t : State}
    (h : s.poll c mask again after = .next t) :
    s.pollLimitReached = false ∧
      ((bitsSet (s.readStatus c).seq.scratch.status mask = true ∧
          t = { s.readStatus c with polls := s.polls + 1 }.goto again) ∨
        (bitsSet (s.readStatus c).seq.scratch.status mask = false ∧
          t = { s.readStatus c with polls := 0 }.goto after)) := by
  unfold State.poll at h
  cases hl : s.pollLimitReached with
  | true => simp only [hl, if_true] at h; cases h
  | false =>
    simp only [hl, Bool.false_eq_true, if_false] at h
    refine ⟨rfl, ?_⟩
    cases hb : bitsSet (s.readStatus c).seq.scratch.status mask with
    | true => rw [hb, if_pos rfl] at h; injection h with h; exact .inl ⟨rfl, h.symm⟩
    | false => rw [hb, if_neg Bool.false_ne_true] at h; injection h with h; exact .inr ⟨rfl, h.symm⟩

/-- What an instruction leaves alone, and the most it does outside the engine's own registers. -/
structure Effect (i : Instr) (s t : State) : Prop where
  config : t.config = s.config
  inputs : t.inputs = s.inputs
  op : t.io.op = s.io.op
  a0 : t.io.a0 = s.io.a0
  a1 : t.io.a1 = s.io.a1
  wbuf : t.io.wbuf = s.io.wbuf
  ctrl : t.ctrl = s.ctrl ∨ (i = .opInitialize ∧ s.seq.phase = .i11 ∧ t = s.recordDevice.goto .i12)
  busUp : t.seq.busUp = s.seq.busUp ∨ (i = .opInitialize ∧ s.seq.phase = .i1 ∧ t.seq.busUp = true)
  environment :
    (t.transport = s.transport ∧ (t.trace = s.trace ∨
      (i = .opInitialize ∧ s.seq.phase = .i6c ∧ t.trace = s.trace ++ [.delay Config.resetDelayUs]))) ∨
    ∃ p a, t.transport = s.transport.after s.config p ∧ t.trace = s.trace ++ [p.event a]

theorem poll_effect {c : BusCommand} {mask : Byte} {again after : Phase} {s t : State} (i : Instr)
    (h : s.poll c mask again after = .next t) : Effect i s t := by
  obtain ⟨-, ⟨-, rfl⟩ | ⟨-, rfl⟩⟩ := poll_cases h <;>
    exact ⟨rfl, rfl, rfl, rfl, rfl, rfl, .inl rfl, .inl rfl, .inr ⟨_, _, rfl, rfl⟩⟩

/-- An effect that touches nothing outside. -/
theorem Effect.silent {i : Instr} {s t : State} (h : t.config = s.config ∧ t.inputs = s.inputs ∧ t.io.op = s.io.op ∧
    t.io.a0 = s.io.a0 ∧ t.io.a1 = s.io.a1 ∧ t.io.wbuf = s.io.wbuf ∧ t.ctrl = s.ctrl ∧ t.seq.busUp = s.seq.busUp ∧
    t.transport = s.transport ∧ t.trace = s.trace) : Effect i s t :=
  ⟨h.1, h.2.1, h.2.2.1, h.2.2.2.1, h.2.2.2.2.1, h.2.2.2.2.2.1, .inl h.2.2.2.2.2.2.1, .inl h.2.2.2.2.2.2.2.1,
    .inl ⟨h.2.2.2.2.2.2.2.2.1, .inl h.2.2.2.2.2.2.2.2.2⟩⟩

/-- An effect that is one primitive call. -/
theorem Effect.called {i : Instr} {s t : State} (p : Primitive) (a : Answer) (h : t.config = s.config ∧
    t.inputs = s.inputs ∧ t.io = s.io ∧ t.ctrl = s.ctrl ∧ t.seq.busUp = s.seq.busUp ∧
    t.transport = s.transport.after s.config p ∧ t.trace = s.trace ++ [p.event a]) : Effect i s t := by
  obtain ⟨h1, h2, h3, h4, h5, h6, h7⟩ := h
  exact ⟨h1, h2, by rw [h3], by rw [h3], by rw [h3], by rw [h3], .inl h4, .inl h5, .inr ⟨p, a, h6, h7⟩⟩

theorem startAt_effect (i : Instr) (p : Phase) (s : State) : Effect i s (s.startAt p) :=
  .silent ⟨rfl, rfl, rfl, rfl, rfl, rfl, rfl, rfl, rfl, rfl⟩

theorem goto_effect (i : Instr) (p : Phase) (s : State) : Effect i s (s.goto p) :=
  .silent ⟨rfl, rfl, rfl, rfl, rfl, rfl, rfl, rfl, rfl, rfl⟩

theorem endOk_effect (i : Instr) (v : Word) (s : State) : Effect i s (s.endOk v) :=
  .silent ⟨rfl, rfl, rfl, rfl, rfl, rfl, rfl, rfl, rfl, rfl⟩

theorem endFailed_effect (i : Instr) (e : Failure) (v : Word) (s : State) : Effect i s (s.endFailed e v) :=
  .silent ⟨rfl, rfl, rfl, rfl, rfl, rfl, rfl, rfl, rfl, rfl⟩

theorem gate_effect (i : Instr) (v : Word) (p : Phase) (s : State) : Effect i s (s.gate v p) := by
  unfold State.gate
  split
  · exact goto_effect ..
  · exact endFailed_effect ..

theorem ite_effect {i : Instr} {s t u : State} (b : Bool) (ht : Effect i s t) (hu : Effect i s u) :
    Effect i s (if b then t else u) := by
  cases b
  · exact hu
  · exact ht

theorem readIdent_effect (i : Instr) (p : Phase) (s : State) : Effect i s (s.readIdent.goto p) :=
  .called _ _ ⟨rfl, rfl, rfl, rfl, rfl, rfl, rfl⟩

theorem readStatus_effect (i : Instr) (c : BusCommand) (p : Phase) (s : State) :
    Effect i s ((s.readStatus c).goto p) :=
  .called _ _ ⟨rfl, rfl, rfl, rfl, rfl, rfl, rfl⟩

theorem writeStatus_effect (i : Instr) (c : BusCommand) (b : List Byte) (p : Phase) (s : State) :
    Effect i s ((s.writeStatus c b).goto p) :=
  .called (.writeCommand (s.config.byteOf c) b) _ ⟨rfl, rfl, rfl, rfl, rfl, rfl, rfl⟩

theorem runCommand_effect (i : Instr) (c : BusCommand) (p : Phase) (s : State) :
    Effect i s ((s.runCommand c).goto p) :=
  .called _ _ ⟨rfl, rfl, rfl, rfl, rfl, rfl, rfl⟩

theorem memRead_effect (i : Instr) (a n : Word) (p : Phase) (s : State) : Effect i s ((s.memRead a n).goto p) :=
  .called _ _ ⟨rfl, rfl, rfl, rfl, rfl, rfl, rfl⟩

theorem memWrite_effect (i : Instr) (p : Phase) (s : State) : Effect i s (s.memWrite.goto p) :=
  .called (.memWrite s.io.a0 s.writeData) _ ⟨rfl, rfl, rfl, rfl, rfl, rfl, rfl⟩

theorem eraseSector_effect (i : Instr) (a : Word) (p : Phase) (s : State) :
    Effect i s ((s.eraseSector a).goto p) :=
  .called _ _ ⟨rfl, rfl, rfl, rfl, rfl, rfl, rfl⟩

theorem identify_effect (i : Instr) (s : State) : Effect i s s.identify := by
  unfold State.identify
  split
  · exact endFailed_effect ..
  · exact .silent ⟨rfl, rfl, rfl, rfl, rfl, rfl, rfl, rfl, rfl, rfl⟩

theorem initialize_effect {s t : State} (h : execInitialize s = .next t) : Effect .opInitialize s t := by
  unfold execInitialize at h
  split at h
  all_goals first
    | exact poll_effect _ h
    | (injection h with h; subst h; first
        | exact startAt_effect .. | exact ite_effect _ (endFailed_effect ..) (goto_effect ..) | exact readIdent_effect ..
        | exact identify_effect .. | exact runCommand_effect .. | exact goto_effect .. | exact endOk_effect ..
        | exact readStatus_effect .. | exact writeStatus_effect ..
        | exact .silent ⟨rfl, rfl, rfl, rfl, rfl, rfl, rfl, rfl, rfl, rfl⟩
        | exact ⟨rfl, rfl, rfl, rfl, rfl, rfl, .inl rfl, .inr ⟨rfl, ‹_›, rfl⟩, .inr ⟨.begin, ⟨true, []⟩, rfl, rfl⟩⟩
        | exact ⟨rfl, rfl, rfl, rfl, rfl, rfl, .inl rfl, .inl rfl, .inl ⟨rfl, .inr ⟨rfl, ‹_›, rfl⟩⟩⟩
        | exact ⟨rfl, rfl, rfl, rfl, rfl, rfl, .inr ⟨rfl, ‹_›, rfl⟩, .inl rfl, .inl ⟨rfl, .inl rfl⟩⟩)
    | cases h

theorem typedRead_effect {i : Instr} {n : Word} {f : List Byte → Word} {v : Word} {s t : State}
    (h : typedRead n f v s = .next t) : Effect i s t := by
  unfold typedRead at h
  split at h
  all_goals first
    | (injection h with h; subst h; first
        | exact startAt_effect .. | exact gate_effect .. | exact memRead_effect ..
        | exact ite_effect _ (endOk_effect ..) (endFailed_effect ..))
    | cases h

theorem statusRead_effect {i : Instr} {c : BusCommand} {s t : State} (h : statusRead c s = .next t) : Effect i s t := by
  unfold statusRead at h
  split at h
  all_goals first
    | (injection h with h; subst h; first
        | exact startAt_effect .. | exact readStatus_effect .. | exact endOk_effect ..)
    | cases h

theorem accessor_effect {i : Instr} {v : Word} {s t : State} (h : accessor v s = .next t) : Effect i s t := by
  unfold accessor at h
  split at h
  all_goals first
    | (injection h with h; subst h; first | exact startAt_effect .. | exact endOk_effect ..)
    | cases h

theorem readBuffer_effect {s t : State} (h : execReadBuffer s = .next t) : Effect .opReadBuffer s t := by
  unfold execReadBuffer at h
  split at h
  all_goals first
    | (injection h with h; subst h; first
        | exact startAt_effect .. | exact gate_effect .. | exact memRead_effect ..
        | exact ite_effect _ (.silent ⟨rfl, rfl, rfl, rfl, rfl, rfl, rfl, rfl, rfl, rfl⟩) (endFailed_effect ..))
    | cases h

theorem writeBuffer_effect {s t : State} (h : execWriteBuffer s = .next t) : Effect .opWriteBuffer s t := by
  unfold execWriteBuffer at h
  split at h
  all_goals first
    | (injection h with h; subst h; first
        | exact startAt_effect .. | exact gate_effect .. | exact memWrite_effect ..
        | exact ite_effect _ (endOk_effect ..) (endFailed_effect ..))
    | cases h

theorem chipErase_effect {s t : State} (h : execChipErase s = .next t) : Effect .opChipErase s t := by
  unfold execChipErase at h
  split at h
  all_goals first
    | exact poll_effect _ h
    | (injection h with h; subst h; first
        | exact startAt_effect .. | exact gate_effect .. | exact runCommand_effect .. | exact endOk_effect ..)
    | cases h

theorem eraseSectorOp_effect {s t : State} (h : execEraseSector s = .next t) : Effect .opEraseSector s t := by
  unfold execEraseSector at h
  split at h
  all_goals first
    | (injection h with h; subst h; first
        | exact startAt_effect .. | exact gate_effect .. | exact eraseSector_effect ..
        | exact .silent ⟨rfl, rfl, rfl, rfl, rfl, rfl, rfl, rfl, rfl, rfl⟩
        | exact ite_effect _ (endOk_effect ..) (endFailed_effect ..))
    | cases h

theorem eraseBlock_effect {s t : State} (h : execEraseBlock s = .next t) : Effect .opEraseBlock s t := by
  unfold execEraseBlock at h
  split at h
  all_goals first
    | exact poll_effect _ h
    | (injection h with h; subst h; first
        | exact startAt_effect .. | exact gate_effect .. | exact runCommand_effect .. | exact endOk_effect ..
        | exact endFailed_effect ..)
    | cases h

theorem mfrDevId_effect {s t : State} (h : execReadMfrDevId s = .next t) : Effect .opReadMfrDevId s t := by
  unfold execReadMfrDevId at h
  split at h
  all_goals first
    | (injection h with h; subst h; first
        | exact startAt_effect .. | exact readIdent_effect .. | exact endOk_effect ..)
    | cases h

theorem jedecId_effect {s t : State} (h : execReadJedecId s = .next t) : Effect .opReadJedecId s t := by
  unfold execReadJedecId at h
  split at h
  all_goals first
    | (injection h with h; subst h; first
        | exact startAt_effect .. | exact readIdent_effect .. | exact endOk_effect ..)
    | cases h

theorem writeEnable_effect {s t : State} (h : execWriteEnable s = .next t) : Effect .opWriteEnable s t := by
  unfold execWriteEnable at h
  split at h
  all_goals first
    | (injection h with h; subst h; first
        | exact startAt_effect .. | exact runCommand_effect ..
        | exact ite_effect _ (endOk_effect ..) (endFailed_effect ..))
    | cases h

/-- Everything an instruction can do when it answers a next state. -/
theorem exec_effect {i : Instr} {s t : State} (h : exec i s = .next t) : Effect i s t := by
  cases i with
  | opInitialize => exact initialize_effect h
  | opReadBuffer => exact readBuffer_effect h
  | opWriteBuffer => exact writeBuffer_effect h
  | opRead8 => exact typedRead_effect h
  | opRead16 => exact typedRead_effect h
  | opRead32 => exact typedRead_effect h
  | opChipErase => exact chipErase_effect h
  | opEraseSector => exact eraseSectorOp_effect h
  | opEraseBlock => exact eraseBlock_effect h
  | opReadMfrDevId => exact mfrDevId_effect h
  | opReadJedecId => exact jedecId_effect h
  | opGetTotalSize => exact accessor_effect h
  | opGetPageSize => exact accessor_effect h
  | opGetPageCount => exact accessor_effect h
  | opReadStatus1 => exact statusRead_effect h
  | opReadStatus2 => exact statusRead_effect h
  | opWriteEnable => exact writeEnable_effect h
  | cmdRdid => injection h with h; subst h; exact .called _ _ ⟨rfl, rfl, rfl, rfl, rfl, rfl, rfl⟩
  | cmdRdsr1 => injection h with h; subst h; exact .called _ _ ⟨rfl, rfl, rfl, rfl, rfl, rfl, rfl⟩
  | cmdRdsr2 => injection h with h; subst h; exact .called _ _ ⟨rfl, rfl, rfl, rfl, rfl, rfl, rfl⟩
  | cmdWrsr1 payload =>
    injection h with h; subst h
    exact .called (.writeCommand (s.config.byteOf .wrsr1) payload) ⟨true, []⟩ ⟨rfl, rfl, rfl, rfl, rfl, rfl, rfl⟩
  | cmdWrsr2 payload =>
    injection h with h; subst h
    exact .called (.writeCommand (s.config.byteOf .wrsr2) payload) ⟨true, []⟩ ⟨rfl, rfl, rfl, rfl, rfl, rfl, rfl⟩
  | cmdWren => injection h with h; subst h; exact .called _ _ ⟨rfl, rfl, rfl, rfl, rfl, rfl, rfl⟩
  | cmdWrdi => injection h with h; subst h; exact .called _ _ ⟨rfl, rfl, rfl, rfl, rfl, rfl, rfl⟩
  | cmdRsten => injection h with h; subst h; exact .called _ _ ⟨rfl, rfl, rfl, rfl, rfl, rfl, rfl⟩
  | cmdRst => injection h with h; subst h; exact .called _ _ ⟨rfl, rfl, rfl, rfl, rfl, rfl, rfl⟩
  | cmdCe => injection h with h; subst h; exact .called _ _ ⟨rfl, rfl, rfl, rfl, rfl, rfl, rfl⟩

/-- Everything the engine's own turn can be. -/
theorem engineTurn_cases (s : State) :
    (s.io.busy = true ∧ ∃ i, s.operation = some i ∧ engineTurn s = .run i s) ∨
      (s.io.busy = true ∧ s.operation = none ∧ engineTurn s = .lost) ∨
      (s.io.busy = false ∧ engineTurn s = .settled s) := by
  unfold engineTurn State.operation
  cases hb : s.io.busy with
  | false => exact .inr (.inr ⟨rfl, by simp⟩)
  | true =>
    cases hd : decodeRequest s.io.op with
    | error e => exact .inr (.inl ⟨rfl, rfl, by simp⟩)
    | ok i => exact .inl ⟨rfl, i, rfl, by simp⟩

/-- Everything that can happen to a request that meets an idle engine. -/
theorem acceptRequest_cases (r : Request) (s : State) :
    (∃ i, decodeRequest r.op = .ok i ∧ acceptRequest r s = .run i (s.hostWrite r)) ∨
      (∃ e, decodeRequest r.op = .error e ∧ acceptRequest r s = .settled (s.hostWrite r).illegalRequest) := by
  unfold acceptRequest
  cases hd : decodeRequest r.op with
  | error e => exact .inr ⟨e, rfl, rfl⟩
  | ok i => exact .inl ⟨i, rfl, rfl⟩

/-- Everything a step of the machine can be when it answers a next state: an instruction, or none. -/
theorem step_cases {s t : State} (h : step s = .next t) :
    (∃ i u, fetch s = .run i u ∧ exec i u = .next t) ∨ fetch s = .settled t := by
  unfold step at h
  cases hf : fetch s with
  | run i u => exact .inl ⟨i, u, rfl, by simpa [hf] using h⟩
  | settled u => rw [hf] at h; injection h with h; subst h; exact .inr rfl
  | lost => simp [hf] at h

/-- Everything a step of the machine can be, in terms of the state it starts from. -/
inductive StepKind (s t : State) : Prop where
  /-- A reset (R250). -/
  | reset (rest : List HostMove) (h : s.inputs = .reset :: rest) (ht : t = ({ s with inputs := rest }).engineReset)
  /-- An idle engine with nothing to do (R81(d)). -/
  | silent (moves : List HostMove) (h : s.io.busy = false) (ht : t = { s with inputs := moves })
  /-- A reserved code (R120). -/
  | illegal (r : Request) (rest : List HostMove) (h : s.inputs = .request r :: rest) (hb : s.io.busy = false)
      (e : DecodeError) (hd : decodeRequest r.op = .error e)
      (ht : t = (({ s with inputs := rest }).hostWrite r).illegalRequest)
  /-- The operation in flight goes on (R31). -/
  | runs (i : Instr) (moves : List HostMove) (h : ∀ rest, s.inputs ≠ .reset :: rest) (hb : s.io.busy = true)
      (hm : moves = s.inputs ∨ s.inputs = .wait :: moves) (hi : s.operation = some i)
      (ht : exec i { s with inputs := moves } = .next t)
  /-- A request starts an operation (R21). -/
  | starts (i : Instr) (r : Request) (rest : List HostMove) (h : s.inputs = .request r :: rest)
      (hb : s.io.busy = false) (hd : decodeRequest r.op = .ok i)
      (ht : exec i (({ s with inputs := rest }).hostWrite r) = .next t)

theorem step_kind {s t : State} (h : step s = .next t) : StepKind s t := by
  have turn : ∀ moves, (∀ rest, s.inputs ≠ .reset :: rest) → (moves = s.inputs ∨ s.inputs = .wait :: moves) →
      fetch s = engineTurn { s with inputs := moves } → StepKind s t := by
    intro moves hr hm hf
    obtain ⟨hb, i, hi, he⟩ | ⟨-, -, he⟩ | ⟨hb, he⟩ := engineTurn_cases { s with inputs := moves }
    · exact .runs i moves hr hb hm hi (by simpa [step, hf, he] using h)
    · simp [step, hf, he] at h
    · exact .silent moves hb (by simpa [step, hf, he] using h.symm)
  cases hin : s.inputs with
  | nil => exact turn [] (by simp [hin]) (.inl hin.symm) (by
      have : ({ s with inputs := [] } : State) = s := by rw [← hin]
      rw [this]; simp [fetch, hin])
  | cons m rest =>
    cases m with
    | reset => exact .reset rest hin (by simpa [step, fetch, hin] using h.symm)
    | wait => exact turn rest (by simp [hin]) (.inr hin) (by simp [fetch, hin])
    | request r =>
      cases hb : s.io.busy with
      | true => exact turn s.inputs (by simp [hin]) (.inl rfl) (by
        show fetch s = engineTurn s
        simp [fetch, hin, hb])
      | false =>
        obtain ⟨i, hd, ha⟩ | ⟨e, hd, ha⟩ := acceptRequest_cases r { s with inputs := rest }
        · exact .starts i r rest hin hb hd (by simpa [step, fetch, hin, hb, ha] using h)
        · exact .illegal r rest hin hb e hd (by simpa [step, fetch, hin, hb, ha] using h.symm)

/-- R102: a code decodes to a host operation only. -/
theorem decodeRequest_host {b : Byte} {i : Instr} (h : decodeRequest b = .ok i) : i.space = .host := by
  unfold decodeRequest at h
  split at h <;> cases h <;> rfl

theorem operation_host {s : State} {i : Instr} (h : s.operation = some i) : i.space = .host := by
  unfold State.operation at h
  cases hd : decodeRequest s.io.op with
  | error e => simp [hd] at h
  | ok j =>
    simp only [hd, Option.some.injEq] at h
    exact h ▸ decodeRequest_host hd

theorem poll_phase {c : BusCommand} {mask : Byte} {again after : Phase} {s t : State}
    (h : s.poll c mask again after = .next t) : (t.seq.phase = again ∨ t.seq.phase = after) ∧ t.io = s.io := by
  obtain ⟨-, ⟨-, rfl⟩ | ⟨-, rfl⟩⟩ := poll_cases h <;> simp

/-- Where an operation goes from its own labels: it ends, or stands at another of its own labels with the host's
registers as they were, `busy` apart. -/
theorem exec_phase {i : Instr} {s t : State} (hs : s.seq.phase = .idle ∨ s.seq.phase ∈ labelsIn s.config i)
    (hi : i.space = .host) (h : exec i s = .next t) :
    (t.seq.phase = .idle ∧ t.io.busy = false) ∨
      (t.seq.phase ∈ labelsIn s.config i ∧ t.seq.phase ≠ .idle ∧
        ((s.seq.phase = .idle ∧ t.io = { s.io with busy := true }) ∨ (s.seq.phase ≠ .idle ∧ t.io = s.io))) := by
  cases hm : s.config.eraseBlockMode
  all_goals
    cases i <;> simp only [Instr.space, reduceCtorEq] at hi
  all_goals
    simp only [exec, execInitialize, execReadBuffer, execWriteBuffer, execRead8, execRead16, execRead32, typedRead,
      execChipErase, execEraseSector, execEraseBlock, execReadMfrDevId, execReadJedecId, execGetTotalSize,
      execGetPageSize, execGetPageCount, accessor, execReadStatus1, execReadStatus2, statusRead, execWriteEnable] at h
  all_goals split at h
  all_goals rename_i he
  all_goals first
    | (simp [he, labelsIn, labelsOf, hm] at hs; done)
    | (have hp := poll_phase h; rcases hp with ⟨hp | hp, hio⟩ <;> simp [hp, he, hio, labelsIn, labelsOf, hm])
    | (injection h with h; subst h; simp [he, labelsIn, labelsOf, hm]; done)
    | (injection h with h; subst h; split <;> simp [he, labelsIn, labelsOf, State.endRead])
    | (injection h with h; subst h; simp only [State.identify]; split <;> simp [he, labelsIn, labelsOf])
    | (injection h with h; subst h; simp only [State.quadTest, State.quadRead]
       split <;> simp [he, labelsIn, labelsOf])
    | (injection h with h; subst h
       simp [he, labelsIn, labelsOf, hm, State.buildImage, State.quadEnableWrite, State.recordDevice]; done)
    | (injection h with h; subst h; simp only [State.gate, eraseBlockEntry, hm]
       (repeat' split) <;> simp [he, labelsIn, labelsOf, hm])
    | cases h

/-- Everything the lifecycle gate can do. -/
theorem gate_cases (v : Word) (p : Phase) (s : State) :
    (s.initialized = true ∧ s.gate v p = s.goto p) ∨
      (s.initialized = false ∧ s.gate v p = s.endFailed .stateError v) := by
  unfold State.gate
  cases h : s.initialized
  · exact .inr ⟨rfl, rfl⟩
  · exact .inl ⟨rfl, rfl⟩

/-- Everything step 3 of `INITIALIZE` can do. -/
theorem identify_cases (s : State) :
    (lookup s.config.catalog s.seq.scratch.ident = none ∧ s.identify = s.endFailed .unsupportedDevice 0) ∨
      ∃ k d, lookup s.config.catalog s.seq.scratch.ident = some (k, d) ∧
        s.identify = (s.withScratch { s.seq.scratch with cand := some k, device := d }).goto .i4 := by
  unfold State.identify
  cases h : lookup s.config.catalog s.seq.scratch.ident with
  | none => exact .inl ⟨rfl, rfl⟩
  | some x => exact .inr ⟨x.1, x.2, rfl, rfl⟩

/-- A status read answered by a script. -/
theorem readStatus_scripted {s : State} {ok : Bool} {b : Byte} {rest : List Answer}
    (h : s.transport = .scripted (⟨ok, [b]⟩ :: rest)) (c : BusCommand) :
    s.readStatus c =
      { s with
        seq := { s.seq with scratch := { s.seq.scratch with status := b } }
        transport := .scripted rest
        trace := s.trace ++ [.readCmd (s.config.byteOf c) 1 [b]]
        draws := s.draws + 1 + 1 } := by
  have ha : s.ask (.readCommand (s.config.byteOf c) 1) = ⟨ok, [b]⟩ := ask_scripted_exact h rfl
  simp only [State.readStatus, State.call, State.withScratch, ha, h]
  rfl

/-- R184: without a bound, or with one that is not used up, the harness lets the pass go on. -/
theorem pollLimitReached_eq_false {s : State} (hl : ∀ n, s.config.pollLimit = some n → s.polls < n) :
    s.pollLimitReached = false := by
  unfold State.pollLimitReached
  split
  · rfl
  · next n hn => exact decide_eq_false (Nat.not_le.2 (hl n hn))

/-- R83: at each of its places the busy-poll is the operation's whole step. -/
theorem exec_pollAt {i : Instr} {s : State} {c : BusCommand} {mask : Byte} {after : Phase}
    (h : pollAt s.config i s.seq.phase = some (c, mask, after)) : exec i s = s.poll c mask s.seq.phase after := by
  unfold pollAt at h
  split at h
  all_goals first
    | cases h; done
    | (next hp =>
        simp only [Option.some.injEq, Prod.mk.injEq] at h
        obtain ⟨rfl, rfl, rfl⟩ := h
        simp only [exec, execInitialize, execChipErase, execEraseBlock, hp])

/-- One pass of the busy-poll under a script, the bound not used up. -/
theorem poll_scripted {s : State} {ok : Bool} {b : Byte} {rest : List Answer}
    (hl : ∀ n, s.config.pollLimit = some n → s.polls < n)
    (h : s.transport = .scripted (⟨ok, [b]⟩ :: rest)) (c : BusCommand) (mask : Byte) (again after : Phase) :
    s.poll c mask again after =
      if bitsSet b mask then .next ({ s.readStatus c with polls := s.polls + 1 }.goto again)
      else .next ({ s.readStatus c with polls := 0 }.goto after) := by
  have hs : (s.readStatus c).seq.scratch.status = b := by rw [readStatus_scripted h]
  unfold State.poll
  rw [pollLimitReached_eq_false hl, if_neg Bool.false_ne_true]
  simp only [hs]
  rfl

theorem execTimes_succ {i : Instr} {s t : State} (h : exec i s = .next t) (n : Nat) :
    execTimes i (n + 1) s = execTimes i n t := by
  simp [execTimes, h]

/-- Runs of one instruction join. -/
theorem execTimes_add {i : Instr} {m : Nat} {s t : State} (h : execTimes i m s = .next t) (n : Nat) :
    execTimes i (m + n) s = execTimes i n t := by
  induction m generalizing s with
  | zero => injection h with h; subst h; simp
  | succ m ih =>
    cases he : exec i s with
    | next u =>
      rw [execTimes_succ he] at h
      rw [Nat.succ_add, execTimes_succ he]
      exact ih h
    | fault r => simp [execTimes, he] at h
    | refused r => simp [execTimes, he] at h

end Sys2Proof.Machine
end

