-- ==== Sys2Proof/Tests/Slice0.lean ====
section
/-! SUPPORT. Our own tests. Expected values come from the spec: words from 30_encoding.md R101 and R110, results from the vectors of 95_test_vectors.md (named in each docstring). At the end, a state that meets the hypotheses of each obligation that has any. -/

namespace Sys2Proof.Tests

open Sys2Proof Sys2Proof.Machine

/-! ### Small states -/

/-- A field of the next state; `none` where the machine stops. -/
def after {α : Type} (r : Result) (f : State → α) : Option α :=
  match r with
  | .next t => some (f t)
  | .fault _ => none
  | .refused _ => none

/-- A busy engine with operation code `op` at label `p`. -/
def busyAt (op : Byte) (p : Phase) (s : State) : State :=
  { s with io := { s.io with op := op, busy := true }, seq := { s.seq with phase := p } }

def script (answers : List Answer) (s : State) : State := { s with transport := .scripted answers }

def operands (a0 a1 : Word) (wbuf : List Byte) (s : State) : State :=
  { s with io := { s.io with a0 := a0, a1 := a1, wbuf := wbuf } }

def scratch (x : Scratch) (s : State) : State := s.withScratch x

def moves (l : List HostMove) (s : State) : State := { s with inputs := l }

/-- After vector S1: the documented row is active. -/
def active : State :=
  { State.reset with
    ctrl := ⟨some 0, 0x00200000, 256, 8192, 0⟩
    seq := { State.reset.seq with busUp := true } }

/-- A reference chip of 16 bytes, all 0xA5 (R240). -/
def smallChip : Chip where
  jedec := ⟨0xC8, 0x40, 0x15⟩
  sr1 := 0
  sr2 := 0
  wel := false
  rstArmed := false
  busyReads := 0
  mem := Memory.uniform 0xA5
  size := 16
  srWriteReads := 1
  ceReads := 2
  progReads := 0
  seReads := 0

def attached (chip : Chip) (s : State) : State := { s with transport := .reference chip }

/-- Descriptors with the flags of the test catalog: mask, single, split, protection. -/
def part (mask : Byte) (single split protect : Bool) : Descriptor :=
  { Descriptor.blank with
    quadEnableBitMask := mask, singleStatusByte := single, writeStatusRegisterSplit := split
    hasSectorProtection := protect, totalSize := 0x00080000 }

/-- `INITIALIZE` at a label, its part bound. -/
def initAt (p : Phase) (d : Descriptor) : State :=
  scratch { Scratch.blank with device := d, cand := some 0 } (busyAt 0x01 p State.reset)

/-- With the harness's bound set, and this many reads already made. -/
def bounded (n polls : Nat) (s : State) : State :=
  { s with config := { Config.standard with pollLimit := some n }, polls := polls }

/-- The places of the busy-poll, each with its operation's code. -/
def pollPlaces : List (Instr × Byte × Phase) :=
  [(.opInitialize, 0x01, .i4), (.opInitialize, 0x01, .i5), (.opInitialize, 0x01, .i10), (.opChipErase, 0x07, .c3),
    (.opEraseBlock, 0x09, .k2)]

/-! ### Well-formedness: an ill-formed term for each check -/

theorem wf_wrsr1_needs_a_payload : (Instr.cmdWrsr1 []).wf = false := by decide
theorem wf_wrsr1_takes_no_third_byte : (Instr.cmdWrsr1 [1, 2, 3]).wf = false := by decide
theorem wf_wrsr2_takes_one_byte : (Instr.cmdWrsr2 [1, 2]).wf = false := by decide
theorem wf_request_wants_a1_bytes : (Request.mk 0x03 0 2 [0x12]).wf = false := by decide
theorem wf_equal_commands_refused : ¬ ({ Config.standard with cmdRst := 0x66 } : Config).DistinctCommands := by decide
theorem wf_zero_wip_mask_refused : ¬ ({ Config.standard with wipMask := 0 } : Config).Wf := by decide
theorem wf_zero_sus_mask_refused : ¬ ({ Config.standard with susMask := 0 } : Config).Wf := by decide
theorem wf_zero_sector_refused : ¬ ({ Config.standard with sectorSize := 0 } : Config).Wf := by decide
theorem wf_two_mask_bits_refused : ¬ (part 0x03 true false false).Wf := by decide
theorem wf_odd_size_refused : ¬ ({ part 0x02 true false false with totalSize := 0x101 } : Descriptor).Wf := by decide
theorem wf_equal_triplets_refused :
    ¬ ({ Config.standard with catalog := [Descriptor.documentedRow, Descriptor.documentedRow] } : Config).CatalogWf := by
  decide
theorem wf_standard : Config.standard.Wf ∧ Config.standard.CatalogWf := by decide

/-! ### Decoding: every constructor from its word -/

/-- R101, family 4.2 and 4.5. -/
theorem test_decode_transfer :
    decodeRequest 0b00000001 = .ok .opInitialize ∧ decodeRequest 0b00000010 = .ok .opReadBuffer ∧
    decodeRequest 0b00000011 = .ok .opWriteBuffer ∧ decodeRequest 0b00000100 = .ok .opRead8 ∧
    decodeRequest 0b00000101 = .ok .opRead16 ∧ decodeRequest 0b00000110 = .ok .opRead32 := by decide

/-- R101, family 4.6. -/
theorem test_decode_erase :
    decodeRequest 0b00000111 = .ok .opChipErase ∧ decodeRequest 0b00001000 = .ok .opEraseSector ∧
    decodeRequest 0b00001001 = .ok .opEraseBlock := by decide

/-- R101, family 4.3 and the accessors. -/
theorem test_decode_identification :
    decodeRequest 0b00001010 = .ok .opReadMfrDevId ∧ decodeRequest 0b00001011 = .ok .opReadJedecId ∧
    decodeRequest 0b00001100 = .ok .opGetTotalSize ∧ decodeRequest 0b00001101 = .ok .opGetPageSize ∧
    decodeRequest 0b00001110 = .ok .opGetPageCount := by decide

/-- R101, family 4.4. -/
theorem test_decode_status :
    decodeRequest 0b00001111 = .ok .opReadStatus1 ∧ decodeRequest 0b00010000 = .ok .opReadStatus2 ∧
    decodeRequest 0b00010001 = .ok .opWriteEnable := by decide

/-- R110, `BUS_READ`. -/
theorem test_decode_bus_read :
    decodeBus Config.standard [0b10011111] = .ok .cmdRdid ∧ decodeBus Config.standard [0b00000101] = .ok .cmdRdsr1 ∧
    decodeBus Config.standard [0b00110101] = .ok .cmdRdsr2 := by decide

/-- R110, `BUS_WRITE`, both payloads of `WRSR1` (R150). -/
theorem test_decode_bus_write :
    decodeBus Config.standard [0b00000001, 0x02] = .ok (.cmdWrsr1 [0x02]) ∧
    decodeBus Config.standard [0b00000001, 0x00, 0x02] = .ok (.cmdWrsr1 [0x00, 0x02]) ∧
    decodeBus Config.standard [0b00110001, 0x08] = .ok (.cmdWrsr2 [0x08]) := by decide

/-- R110, `BUS_RUN`. -/
theorem test_decode_bus_run :
    decodeBus Config.standard [0b00000110] = .ok .cmdWren ∧ decodeBus Config.standard [0b00000100] = .ok .cmdWrdi ∧
    decodeBus Config.standard [0b01100110] = .ok .cmdRsten ∧ decodeBus Config.standard [0b10011001] = .ok .cmdRst ∧
    decodeBus Config.standard [0b11000111] = .ok .cmdCe := by decide

/-- R120 to R122: reserved codes, unknown commands, wrong lengths. -/
theorem test_decode_rejects :
    decodeRequest 0x00 = .error (.reservedOperation 0x00) ∧ decodeRequest 0x12 = .error (.reservedOperation 0x12) ∧
    decodeRequest 0xFF = .error (.reservedOperation 0xFF) ∧ decodeHost [] = .error .empty ∧
    decodeHost [0x04, 0x00] = .error (.trailingBytes 0x04) ∧ decodeBus Config.standard [] = .error .empty ∧
    decodeBus Config.standard [0x02] = .error (.unknownCommand 0x02) ∧
    decodeBus Config.standard [0x01] = .error (.badPayload 0x01) ∧
    decodeBus Config.standard [0x31, 0, 0] = .error (.badPayload 0x31) ∧
    decodeBus Config.standard [0x06, 0] = .error (.badPayload 0x06) := by decide

/-- The table words of both spaces; 0x05 is in both and reads as the host's (log 10). -/
theorem test_table_words :
    decodeTableWord 8 0x11 = some .opWriteEnable ∧ decodeTableWord 8 0x05 = some .opRead16 ∧
    decodeTableWord 8 0x9F = some .cmdRdid ∧ decodeTableWord 8 0x31 = some (.cmdWrsr2 [0]) ∧
    decodeTableWord 8 0xC7 = some .cmdCe ∧ decodeTableWord 8 0xFE = none := by decide

/-- A host word placed by `withFetchWord` is requested by the next step; a bus word is sent by it. -/
theorem test_fetch_word_host : after (step (State.reset.withFetchWord 8 0x0B)) (·.seq.phase) = some .j1 := by decide
theorem test_fetch_word_bus :
    after (step (State.reset.withFetchWord 8 0x31)) (·.trace) = some [.writeCmd 0x31 [0]] := by decide
theorem test_fetch_word_erase :
    after (step (attached { smallChip with wel := true } active |>.withFetchWord 8 0xC7)) (fun t => t.arrayByte 3)
      = some (some 0xFF) := by decide

/-! ### One step of each operation -/

/-- INIT-U: an unknown triplet ends with status 1. -/
theorem test_initialize_unsupported :
    after (exec .opInitialize (scratch { Scratch.blank with ident := ⟨0xFF, 0xFF, 0xFF⟩ } (busyAt 0x01 .i3 State.reset)))
      (fun t => (t.io.st, t.io.r0, t.io.busy)) = some (1, 0, false) := by decide
/-- S1: the single path sends one byte `[02]`, not `[00 02]`. -/
theorem test_initialize_single_path :
    after (exec .opInitialize (scratch { Scratch.blank with device := Descriptor.documentedRow, img1 := 0x02 }
      (busyAt 0x01 .i7c State.reset))) (·.trace) = some [.writeCmd 0x01 [0x02]] := by decide
/-- RB1. -/
theorem test_read_buffer :
    after (exec .opReadBuffer (scratch { Scratch.blank with ok := true, bytes := [0xDE, 0xAD, 0xBE, 0xEF] }
      (operands 0x1000 4 [] (busyAt 0x02 .b2 active)))) (fun t => (t.io.st, t.io.r0, t.io.rbuf))
      = some (0, 4, [0xDE, 0xAD, 0xBE, 0xEF]) := by decide
/-- RB2. -/
theorem test_read_buffer_failure :
    after (exec .opReadBuffer (operands 0x1000 4 [] (busyAt 0x02 .b2 active))) (fun t => (t.io.st, t.io.r0))
      = some (2, 0) := by decide
/-- WB1. -/
theorem test_write_buffer_event :
    after (exec .opWriteBuffer (script [⟨true, []⟩] (operands 0x3000 2 [0x12, 0x34] (busyAt 0x03 .b1 active)))) (·.trace)
      = some [.writeMem 0x3000 [0x12, 0x34] true] := by decide
/-- WB2. -/
theorem test_write_buffer_failure :
    after (exec .opWriteBuffer (operands 0x3000 2 [0x12, 0x34] (busyAt 0x03 .b2 active))) (fun t => (t.io.st, t.io.r0))
      = some (2, 0) := by decide
/-- R8a. -/
theorem test_read8 :
    after (exec .opRead8 (scratch { Scratch.blank with ok := true, bytes := [0x5A] } (busyAt 0x04 .b2 active)))
      (fun t => (t.io.st, t.io.r0)) = some (0, 0x5A) := by decide
/-- R8d: the gate gives the sentinel too. -/
theorem test_read8_gate :
    after (exec .opRead8 (busyAt 0x04 .g State.reset)) (fun t => (t.io.st, t.io.r0)) = some (4, 0xFF) := by decide
/-- R16a. -/
theorem test_read16 :
    after (exec .opRead16 (scratch { Scratch.blank with ok := true, bytes := [0x34, 0x12] } (busyAt 0x05 .b2 active)))
      (fun t => (t.io.st, t.io.r0)) = some (0, 0x1234) := by decide
/-- R16c. -/
theorem test_read16_failure :
    after (exec .opRead16 (busyAt 0x05 .b2 active)) (fun t => (t.io.st, t.io.r0)) = some (2, 0xFFFF) := by decide
/-- R32c. -/
theorem test_read32 :
    after (exec .opRead32 (scratch { Scratch.blank with ok := true, bytes := [0, 0, 0, 0x80] } (busyAt 0x06 .b2 active)))
      (fun t => (t.io.st, t.io.r0)) = some (0, 0x80000000) := by decide
/-- R32b. -/
theorem test_read32_failure :
    after (exec .opRead32 (busyAt 0x06 .b2 active)) (fun t => (t.io.st, t.io.r0)) = some (2, 0xFFFFFFFF) := by decide
/-- CE1: a busy byte keeps the poll at `C3`. -/
theorem test_chip_erase_polls :
    after (exec .opChipErase (script [⟨true, [0x01]⟩] (busyAt 0x07 .c3 active))) (fun t => (t.seq.phase, t.trace))
      = some (.c3, [.readCmd 0x05 1 [0x01]]) := by decide
/-- CE2: a failed erase command is not seen. -/
theorem test_chip_erase_ignores_failure :
    after (exec .opChipErase (script [⟨false, []⟩] (busyAt 0x07 .c2 active))) (fun t => (t.seq.phase, t.trace))
      = some (.c3, [.runCmd 0xC7 false]) := by decide
/-- ES4: the product wraps. -/
theorem test_erase_sector_wraps :
    after (exec .opEraseSector (operands 0x00100000 0 [] (busyAt 0x08 .e1 active))) (·.seq.scratch.addr) = some 0 := by
  decide
/-- ES6: the default mode reports success although the transport said `false`. -/
theorem test_erase_sector_always_ok :
    after (exec .opEraseSector (busyAt 0x08 .e3 active)) (fun t => (t.io.st, t.io.r0)) = some (0, 1) := by decide
/-- EB1. -/
theorem test_erase_block :
    after (exec .opEraseBlock (busyAt 0x09 .k0 active)) (fun t => (t.io.st, t.io.r0)) = some (3, 0) := by decide
/-- EB2: the gate comes first. -/
theorem test_erase_block_gate :
    after (exec .opEraseBlock (busyAt 0x09 .g State.reset)) (fun t => (t.io.st, t.io.r0)) = some (4, 0) := by decide
/-- ID2. -/
theorem test_mfr_dev_id :
    after (exec .opReadMfrDevId (scratch { Scratch.blank with ident := ⟨0xC8, 0x40, 0x15⟩ } (busyAt 0x0A .m2 active)))
      (·.io.r0) = some 0xC840 := by decide
/-- ID1. -/
theorem test_jedec_id :
    after (exec .opReadJedecId (scratch { Scratch.blank with ident := ⟨0xC8, 0x40, 0x15⟩ } (busyAt 0x0B .j2 active)))
      (·.io.r0) = some 0xC84015 := by decide
/-- GEO2. -/
theorem test_total_size : after (exec .opGetTotalSize (busyAt 0x0C .acc active)) (·.io.r0) = some 0x00200000 := by decide
theorem test_page_size : after (exec .opGetPageSize (busyAt 0x0D .acc active)) (·.io.r0) = some 0x100 := by decide
theorem test_page_count : after (exec .opGetPageCount (busyAt 0x0E .acc active)) (·.io.r0) = some 0x2000 := by decide
/-- ST1. -/
theorem test_read_status1 :
    after (exec .opReadStatus1 (script [⟨true, [0x03]⟩] (busyAt 0x0F .s1 State.reset))) (·.trace)
      = some [.readCmd 0x05 1 [0x03]] := by decide
/-- ST2. -/
theorem test_read_status2 :
    after (exec .opReadStatus2 (scratch { Scratch.blank with status := 0xFF } (busyAt 0x10 .s2 State.reset)))
      (fun t => (t.io.st, t.io.r0)) = some (0, 0xFF) := by decide
/-- ST3, ST4. -/
theorem test_write_enable :
    after (exec .opWriteEnable (scratch { Scratch.blank with ok := true } (busyAt 0x11 .w2 State.reset)))
      (fun t => (t.io.st, t.io.r0)) = some (0, 1) := by decide
theorem test_write_enable_failure :
    after (exec .opWriteEnable (busyAt 0x11 .w2 State.reset)) (fun t => (t.io.st, t.io.r0)) = some (2, 0) := by decide

/-! ### The bus commands on the reference chip (R240) -/

theorem test_cmd_rdid :
    after (exec .cmdRdid (attached smallChip active)) (·.seq.scratch.ident) = some ⟨0xC8, 0x40, 0x15⟩ := by decide
/-- P3, request 1: the byte read after the quad-enable write shows write-in-progress. -/
theorem test_cmd_rdsr1 :
    after (exec .cmdRdsr1 (attached { smallChip with sr1 := 0x02, busyReads := 1 } active))
      (fun t => (t.seq.scratch.status, t.transport))
      = some (0x03, .reference { smallChip with sr1 := 0x02, busyReads := 0 }) := by decide
theorem test_cmd_rdsr2 :
    after (exec .cmdRdsr2 (attached { smallChip with sr2 := 0x80 } active)) (·.seq.scratch.status) = some 0x80 := by decide
/-- F9: a one-byte write of status register 1 leaves register 2 alone and uses up the latch. -/
theorem test_cmd_wrsr1 :
    after (exec (.cmdWrsr1 [0xFF]) (attached { smallChip with wel := true, sr2 := 0x02 } active)) (·.transport)
      = some (.reference { smallChip with sr1 := 0xFE, sr2 := 0x02, busyReads := 1 }) := by decide
theorem test_cmd_wrsr1_two_bytes :
    after (exec (.cmdWrsr1 [0x00, 0xFF]) (attached { smallChip with wel := true } active)) (·.transport)
      = some (.reference { smallChip with sr2 := 0x7F, busyReads := 1 }) := by decide
/-- Without the latch the write is ignored. -/
theorem test_cmd_wrsr2_ignored :
    after (exec (.cmdWrsr2 [0x02]) (attached smallChip active)) (·.transport) = some (.reference smallChip) := by decide
theorem test_cmd_wren :
    after (exec .cmdWren (attached { smallChip with rstArmed := true } active)) (·.transport)
      = some (.reference { smallChip with wel := true }) := by decide
theorem test_cmd_wrdi :
    after (exec .cmdWrdi (attached { smallChip with wel := true } active)) (·.transport)
      = some (.reference smallChip) := by decide
theorem test_cmd_rsten :
    after (exec .cmdRsten (attached smallChip active)) (·.transport)
      = some (.reference { smallChip with rstArmed := true }) := by decide
/-- A second `CMD_RSTEN` leaves the reset armed: the model's choice (log 16). -/
theorem test_cmd_rsten_twice :
    after (exec .cmdRsten (attached { smallChip with rstArmed := true } active)) (·.transport)
      = some (.reference { smallChip with rstArmed := true }) := by decide
theorem test_cmd_rst :
    after (exec .cmdRst (attached { smallChip with rstArmed := true, wel := true, sr2 := 0x82, busyReads := 3 } active))
      (·.transport) = some (.reference { smallChip with sr2 := 0x02 }) := by decide
theorem test_cmd_rst_unarmed :
    after (exec .cmdRst (attached { smallChip with wel := true } active)) (·.transport)
      = some (.reference { smallChip with wel := true }) := by decide
theorem test_cmd_ce :
    after (exec .cmdCe (attached { smallChip with wel := true } active)) (·.transport)
      = some (.reference { smallChip with mem := Memory.uniform 0xFF, busyReads := 2 }) := by decide

/-- Writing the background byte removes the entry; the canonical form holds at reset. -/
theorem test_memory_canonical :
    ((Memory.uniform 0xA5).write 3 0x12 |>.write 3 0xA5) = Memory.uniform 0xA5 ∧
    ((Memory.uniform 0xA5).write 3 0x12 |>.write 1 0x34).wf ∧ State.reset.transport.memoryWf :=
  ⟨by decide, by decide, trivial⟩

/-! ### A state for the hypotheses of each obligation -/

theorem witness_DecodeOfEncode : Config.standard.DistinctCommands ∧ (Instr.cmdWrsr1 [0x00, 0x02]).wf = true ∧
    (Instr.cmdWrsr1 [0xFF]).wf = true ∧ (Instr.cmdWrsr2 [0x08]).wf = true := by decide

theorem witness_EncodeOfDecode : decode Config.standard .bus [0x01, 0x00, 0x02] = .ok (.cmdWrsr1 [0x00, 0x02]) ∧
    decode Config.standard .host [0x01] = .ok .opInitialize := by decide

/-- One state per clause: busy with no host, with a waiting host, with a standing request; idle with a request. -/
theorem witness_StepRunsDecodedInstruction :
    (∃ s : State, s.inputs = [] ∧ s.io.busy = true ∧ decodeRequest s.io.op = .ok .opReadStatus1) ∧
    (∃ s : State, s.inputs = [.wait] ∧ s.io.busy = true ∧ decodeRequest s.io.op = .ok .opReadStatus1) ∧
    (∃ s : State, s.inputs = [.request ⟨0x02, 0, 4, []⟩] ∧ s.io.busy = true ∧
      decodeRequest s.io.op = .ok .opReadStatus1) ∧
    (∃ s : State, s.inputs = [.request ⟨0x11, 0, 0, []⟩] ∧ s.io.busy = false ∧
      decodeRequest 0x11 = .ok .opWriteEnable) :=
  ⟨⟨busyAt 0x0F .s1 State.reset, by decide⟩, ⟨moves [.wait] (busyAt 0x0F .s1 State.reset), by decide⟩,
    ⟨moves [.request ⟨0x02, 0, 4, []⟩] (busyAt 0x0F .s1 State.reset), by decide⟩,
    ⟨moves [.request ⟨0x11, 0, 0, []⟩] State.reset, by decide⟩⟩

theorem witness_RequestStartsTheOperation :
    ∃ s : State, s.inputs = [.request ⟨0x01, 0, 0, []⟩] ∧ s.io.busy = false ∧ s.seq.phase = .idle ∧
      decodeRequest 0x01 = .ok .opInitialize :=
  ⟨moves [.request ⟨0x01, 0, 0, []⟩] State.reset, by decide⟩

/-- The codes at the edges of the reserved ranges. -/
theorem witness_ReservedCodeIsIllegal :
    ∀ c ∈ [0x00#8, 0x12#8, 0xFF#8], ∃ s : State, s.inputs = [.request ⟨c, 0, 0, []⟩] ∧ s.io.busy = false ∧
      s.seq.phase = .idle ∧ (c = 0x00 ∨ 0x12 ≤ c.toNat) :=
  fun c hc => ⟨moves [.request ⟨c, 0, 0, []⟩] State.reset, rfl, rfl, rfl, by revert c; decide⟩

theorem witness_IdleEngineIssuesNothing :
    (State.reset.io.busy = false ∧ State.reset.inputs = []) ∧
    ((moves [.wait] active).io.busy = false ∧ (moves [.wait] active).inputs = [.wait]) := by decide

theorem witness_RequestWaitsWhileBusy :
    ∃ s t : State, s.inputs = [.request ⟨0x02, 0, 4, []⟩] ∧ s.io.busy = true ∧ step s = .next t :=
  ⟨moves [.request ⟨0x02, 0, 4, []⟩] (busyAt 0x0F .s1 State.reset), _, rfl, rfl, rfl⟩

theorem witness_ResetTakesEffectAtOnce : ∃ s : State, s.inputs = [.reset] ∧ s.io.busy = true :=
  ⟨moves [.reset] (busyAt 0x07 .c3 active), by decide⟩

theorem consistent_chip_erase : (busyAt 0x07 .c2 active).Consistent := ⟨.opChipErase, by decide⟩

/-- The same state serves the three invariants of the sequencer. -/
theorem witness_SequencerStaysConsistent :
    ∃ s t : State, s.Consistent ∧ s.io.busy = true ∧ step s = .next t :=
  ⟨busyAt 0x07 .c2 active, _, consistent_chip_erase, rfl, rfl⟩

theorem witness_InvariantsHoldAtReset : Config.standard.DistinctCommands := by decide

theorem witness_ConsistentEngineNeverStops :
    ∃ s : State, s.Consistent ∧ s.io.busy = true ∧ s.config.pollLimit = none :=
  ⟨busyAt 0x07 .c2 active, consistent_chip_erase, rfl, rfl⟩

/-- Behind the write-enable of a chip erase. -/
theorem witness_TraceStaysOrdered : ∃ s t : State, s.Ordered ∧ s.trace ≠ [] ∧ step s = .next t := by
  refine ⟨{ busyAt 0x07 .c2 active with trace := [.runCmd 0x06 true] }, _, ⟨by decide, consistent_chip_erase, ?_, ?_⟩,
    by decide, rfl⟩
  · intro earlier e later h
    cases earlier with
    | nil => injection h with h; subst h; exact ⟨by decide, by decide, by decide⟩
    | cons a l => simp at h
  · intro i _ hi
    injection hi with hi
    subst hi
    exact ⟨true, rfl⟩

theorem witness_EventsStayShaped :
    ∃ s t : State, s.trace ≠ [] ∧ (∀ e ∈ s.trace, e.Shaped s.config) ∧ step s = .next t := by
  refine ⟨{ busyAt 0x07 .c2 active with trace := [.runCmd 0x06 true] }, _, by decide, ?_, rfl⟩
  intro e he
  simp only [List.mem_singleton] at he
  subst he
  exact .inl rfl

theorem witness_OneEventPerStep : ∃ s t : State, step s = .next t ∧ t.trace ≠ s.trace :=
  ⟨script [⟨true, []⟩] (busyAt 0x07 .c2 active), _, rfl, by decide⟩

theorem described_active : active.Described := by
  refine ⟨rfl, fun k hk => ?_, fun h => ?_, fun h => ?_, fun h => ?_⟩
  · injection hk with hk
    subst hk
    exact ⟨Descriptor.documentedRow, by decide⟩
  all_goals cases h

theorem described_recording : (initAt .i11 Descriptor.documentedRow).Described := by
  refine ⟨⟨.opInitialize, by decide⟩, fun k hk => ?_, fun _ => by decide, fun _ _ _ _ => rfl, fun _ _ _ => ⟨0, by decide⟩⟩
  cases hk

/-- An active device, and an `INITIALIZE` at the step that records one. -/
theorem witness_GeometryDescribesActiveDevice :
    (∃ s t : State, s.Described ∧ step s = .next t ∧ s.initialized = true) ∧
    (∃ s t : State, s.Described ∧ step s = .next t ∧ s.seq.phase = .i11) :=
  ⟨⟨active, _, described_active, rfl, rfl⟩, ⟨initAt .i11 Descriptor.documentedRow, _, described_recording, rfl, rfl⟩⟩

theorem witness_ControllerFixedOnceInitialized :
    ∃ s t : State, s.Described ∧ s.initialized = true ∧ step s = .next t :=
  ⟨active, _, described_active, rfl, rfl⟩

theorem witness_ParametersCursorAndBusFlag :
    ∃ s t : State, step s = .next t ∧ s.seq.busUp = false ∧ t.seq.busUp = true :=
  ⟨busyAt 0x01 .i1 State.reset, _, rfl, rfl, rfl⟩

/-- Clause 1: busy before and after. Clause 2: with a busy engine, and with a host that makes no request. -/
theorem witness_HostRegistersHeld :
    (∃ s t : State, step s = .next t ∧ s.io.busy = true ∧ t.io.busy = true) ∧
    (∃ s t : State, step s = .next t ∧ (∀ rest, s.inputs ≠ .reset :: rest) ∧ s.io.busy = true) ∧
    (∃ s t : State, step s = .next t ∧ (∀ rest, s.inputs ≠ .reset :: rest) ∧ s.io.busy = false ∧
      ∀ r rest, s.inputs ≠ .request r :: rest) :=
  ⟨⟨busyAt 0x07 .c2 active, _, rfl, rfl, rfl⟩, ⟨busyAt 0x07 .c2 active, _, rfl, by rintro _ ⟨⟩, rfl⟩,
    ⟨active, _, rfl, by rintro _ ⟨⟩, rfl, by rintro _ _ ⟨⟩⟩⟩

/-- Two states that differ in a status byte no later step reads. -/
theorem witness_DeadScratchNeverShows :
    ∃ s t s' : State, s.Consistent ∧ s ≠ t ∧ s.live = t.live ∧ step s = .next s' :=
  ⟨busyAt 0x07 .c2 active, scratch { Scratch.blank with status := 0xFF } (busyAt 0x07 .c2 active), _,
    consistent_chip_erase, by decide, by decide, rfl⟩

theorem witness_UnreadOperandsIgnored :
    (∃ s t : State, exec .opWriteEnable s = .next t ∧ Instr.opWriteEnable.requestFormat = some .req0) ∧
    (∃ s t : State, exec .opRead16 s = .next t ∧ Instr.opRead16.requestFormat = some .req1) ∧
    (∃ s t : State, exec .opReadBuffer s = .next t ∧ Instr.opReadBuffer.requestFormat = some .req2) :=
  ⟨⟨busyAt 0x11 .w1 active, _, rfl, rfl⟩, ⟨busyAt 0x05 .b1 active, _, rfl, rfl⟩, ⟨busyAt 0x02 .b1 active, _, rfl, rfl⟩⟩

/-- An ending with status 0 and one with another status. -/
theorem witness_EndingWritesOnlyTheResult :
    (∃ s t : State, exec .opChipErase s = .next t ∧ s.seq.phase ≠ .idle ∧ t.seq.phase = .idle ∧ t.io.st = 0) ∧
    (∃ s t : State, exec .opRead16 s = .next t ∧ s.seq.phase ≠ .idle ∧ t.seq.phase = .idle ∧ t.io.st ≠ 0) :=
  ⟨⟨busyAt 0x07 .c4 active, _, rfl, by decide, rfl, rfl⟩, ⟨busyAt 0x05 .b2 active, _, rfl, by decide, rfl, by decide⟩⟩

theorem witness_OperationsEndWithTheirStatuses :
    (∃ s t : State, exec .opChipErase s = .next t ∧ s.seq.phase ∈ labelsIn s.config .opChipErase ∧
      t.seq.phase = .idle) ∧
    (∃ s t : State, exec .opEraseBlock s = .next t ∧ s.seq.phase ∈ labelsIn s.config .opEraseBlock ∧
      t.seq.phase = .idle) :=
  ⟨⟨busyAt 0x07 .c4 active, _, rfl, by decide, rfl⟩, ⟨busyAt 0x09 .k0 active, _, rfl, by decide, rfl⟩⟩

theorem witness_ClosedGateFailsFast :
    isGated .opRead16 = true ∧ State.reset.seq.phase = .idle ∧ State.reset.ctrl.activeDevice = none := by decide

theorem witness_SecondInitializeRefused :
    (active.seq.phase = .idle ∧ active.ctrl.activeDevice ≠ none) ∧
    (State.reset.seq.phase = .idle ∧ State.reset.ctrl.activeDevice = none) := by decide

theorem witness_RequestWhileBusyRefused :
    ∃ s : State, Instr.opReadStatus1.space = .host ∧ s.seq.phase ≠ .idle ∧ s.seq.phase ∉ labelsOf .opReadStatus1 :=
  ⟨busyAt 0x07 .c3 active, by decide⟩

/-- A bound of two, used up, at each place of the busy-poll. -/
theorem witness_PollLimitReportsNotFinished :
    ∀ x ∈ pollPlaces, ∃ s : State,
      (pollAt s.config x.1 s.seq.phase).isSome = true ∧ s.config.pollLimit = some 2 ∧ 2 ≤ s.polls := by
  intro x hx
  refine ⟨bounded 2 2 (busyAt x.2.1 x.2.2 active), ?_, rfl, Nat.le_refl 2⟩
  revert x
  decide

theorem witness_OperationsSendTheirCommands :
    (∃ s u : State, Instr.opChipErase.space = .host ∧ exec .opChipErase s = .next u ∧
      commandSentAt .opChipErase s = some .cmdCe) ∧
    (∃ s u : State, Instr.opRead8.space = .host ∧ exec .opRead8 s = .next u ∧ commandSentAt .opRead8 s = none ∧
      ∃ e, u.trace = s.trace ++ [e]) :=
  ⟨⟨busyAt 0x07 .c2 active, _, rfl, rfl, rfl⟩, ⟨busyAt 0x04 .b1 active, _, rfl, rfl, rfl, _, rfl⟩⟩

/-- Nothing in flight, and the last busy read. -/
theorem witness_BusReadsComplete :
    ∀ chip ∈ [smallChip, { smallChip with busyReads := 1 }], ∃ s : State,
      s.transport = .reference chip ∧ s.seq.busUp = true ∧ s.config.DistinctCommands :=
  fun chip _ => ⟨attached chip active, rfl, rfl, (by decide : Config.standard.DistinctCommands)⟩

/-- A chip that accepts; the latch clear; a write in flight. -/
theorem witness_BusWritesComplete :
    ∀ chip ∈ [{ smallChip with wel := true }, smallChip, { smallChip with wel := true, busyReads := 1 }],
      ∃ s : State, s.transport = .reference chip ∧ s.config.DistinctCommands ∧
        ((chip.wel = true ∧ chip.busyReads = 0) ∨ chip.wel = false ∨ chip.busyReads ≠ 0) := by
  intro chip hc
  refine ⟨attached chip active, rfl, (by decide : Config.standard.DistinctCommands), ?_⟩
  revert chip
  decide

/-- The same three chips, and one with the reset armed. -/
theorem witness_BusRunsComplete :
    ∀ chip ∈ [{ smallChip with wel := true }, smallChip, { smallChip with wel := true, busyReads := 1 },
        { smallChip with rstArmed := true }],
      ∃ s : State, s.transport = .reference chip ∧ s.seq.busUp = true ∧ s.config.DistinctCommands :=
  fun chip _ => ⟨attached chip active, rfl, rfl, (by decide : Config.standard.DistinctCommands)⟩

/-- Any transport, and a script whose first entry has the length asked. -/
theorem witness_AnyAnswerOfTheAskedLength :
    (Answer.mk true [0xC8, 0x40, 0x15]).bytes.length = (Primitive.readCommand 0x9F 3).asked ∧
    (script [⟨true, [0xC8, 0x40, 0x15]⟩] active).transport = .scripted (⟨true, [0xC8, 0x40, 0x15]⟩ :: []) := by decide

/-- A triplet the catalog has and one it has not. -/
theorem witness_InitializeIdentifies :
    State.reset.seq.phase = .idle ∧ State.reset.ctrl.activeDevice = none ∧
    lookup State.reset.config.catalog ⟨0xFF, 0xFF, 0xFF⟩ = none ∧
    lookup State.reset.config.catalog ⟨0xC8, 0x40, 0x15⟩ = some (0, Descriptor.documentedRow) := by decide

theorem witness_InitializeResetsTheChip : (busyAt 0x01 .i6a State.reset).seq.phase = .i6a := by decide

theorem witness_QuadEnableTest :
    ((initAt .i7 (part 0 false false false)).seq.phase = .i7 ∧
      (initAt .i7 (part 0 false false false)).seq.scratch.device.quadEnableBitMask = 0) ∧
    ((initAt .i7 (part 0x02 true false false)).seq.phase = .i7 ∧
      (initAt .i7 (part 0x02 true false false)).seq.scratch.device.quadEnableBitMask ≠ 0) := by decide

theorem witness_QuadEnableWritePaths : (initAt .i7a (part 0x02 true false false)).seq.phase = .i7a := by decide

theorem witness_ProtectionClearAndWriteDisable :
    ((initAt .i8 (part 0 false false true)).seq.phase = .i8 ∧
      (initAt .i8 (part 0 false false true)).seq.scratch.device.hasSectorProtection = true) ∧
    ((initAt .i8 (part 0 false false false)).seq.phase = .i8 ∧
      (initAt .i8 (part 0 false false false)).seq.scratch.device.hasSectorProtection = false) := by decide

theorem witness_InitializeRecordsAndCompletes : (initAt .i11 Descriptor.documentedRow).seq.phase = .i11 := by decide

/-- S1 with one more busy poll at steps 4, 5 and 10. -/
def run : InitRun where
  ident := ⟨0xC8, 0x40, 0x15⟩
  busy4 := [0x01]
  clear4 := 0x00
  busy5 := [0x80]
  clear5 := 0x7F
  okRsten := true
  okRst := false
  quadStatus := 0x00
  okQuadWren := true
  okProtWren := true
  okWrdi := true
  busy10 := [0x03]
  clear10 := 0x02

theorem witness_InitializeSucceeds :
    ∃ s : State, s.seq.phase = .idle ∧ s.ctrl.activeDevice = none ∧ s.config.pollLimit = none ∧
      lookup s.config.catalog run.ident = some (0, Descriptor.documentedRow) ∧ run.Clears s.config ∧
      s.transport = .scripted (run.answers Descriptor.documentedRow ++ []) :=
  ⟨script (run.answers Descriptor.documentedRow ++ []) State.reset, by decide⟩

/-- Each place of the busy-poll, without a bound and at the last pass that a bound of three allows. -/
theorem witness_BusyPollPass :
    ∀ x ∈ pollPlaces,
      ((pollAt (busyAt x.2.1 x.2.2 active).config x.1 (busyAt x.2.1 x.2.2 active).seq.phase).isSome = true ∧
        (busyAt x.2.1 x.2.2 active).config.pollLimit = none) ∧
      ((pollAt (bounded 3 2 (busyAt x.2.1 x.2.2 active)).config x.1 x.2.2).isSome = true ∧
        (bounded 3 2 (busyAt x.2.1 x.2.2 active)).config.pollLimit = some 3 ∧
        (bounded 3 2 (busyAt x.2.1 x.2.2 active)).polls < 3) := by decide

/-- Without a bound, and with one that leaves room for exactly the three reads. -/
theorem witness_BusyWaitEndsAtFirstClear :
    ∀ base ∈ [active, bounded 3 0 active], ∃ s : State,
      pollAt s.config .opChipErase s.seq.phase = some (.rdsr1, 0x01, .c4) ∧ s.config.pollLimit = base.config.pollLimit ∧
      (∀ n, s.config.pollLimit = some n → s.polls + [0xFF#8, 0x01#8].length < n) ∧
      (∀ b ∈ [0xFF#8, 0x01#8], bitsSet b 0x01 = true) ∧ bitsSet 0x02 0x01 = false ∧
      s.transport = .scripted (statusAnswers ([0xFF, 0x01] ++ [0x02]) ++ []) := by
  intro base hb
  refine ⟨script (statusAnswers ([0xFF, 0x01] ++ [0x02]) ++ []) (busyAt 0x07 .c3 base), ?_, rfl, ?_, by decide,
    by decide, rfl⟩
  · revert base; decide
  · simp only [List.mem_cons, List.not_mem_nil, or_false] at hb
    rcases hb with rfl | rfl
    · rintro n ⟨⟩
    · rintro n ⟨⟩; decide

/-- Without a bound, and with one that the two reads use up. -/
theorem witness_HangKeepsPolling :
    ∀ base ∈ [State.reset, bounded 2 0 State.reset], ∃ s : State,
      pollAt s.config .opInitialize s.seq.phase = some (.rdsr2, 0x80, .i6a) ∧
      s.config.pollLimit = base.config.pollLimit ∧
      (∀ n, s.config.pollLimit = some n → s.polls + [0x80#8, 0xFF#8].length ≤ n) ∧
      (∀ b ∈ [0x80#8, 0xFF#8], bitsSet b 0x80 = true) ∧
      s.transport = .scripted (statusAnswers [0x80, 0xFF] ++ []) := by
  intro base hb
  refine ⟨script (statusAnswers [0x80, 0xFF] ++ []) (busyAt 0x01 .i5 base), ?_, rfl, ?_, by decide, rfl⟩
  · revert base; decide
  · simp only [List.mem_cons, List.not_mem_nil, or_false] at hb
    rcases hb with rfl | rfl
    · rintro n ⟨⟩
    · rintro n ⟨⟩; decide

/-- An idle engine in each lifecycle state: all that `IdentificationQueries`, `GeometryAccessors`, `StatusReads`,
`WriteEnableReportsTheTransport`, `ReadBufferCompletes`, `TypedReadsComplete` and `EraseSectorCompletes` ask for, in
both of their clauses. -/
theorem witness_idle :
    State.reset.seq.phase = .idle ∧ State.reset.ctrl.activeDevice = none ∧
    active.seq.phase = .idle ∧ active.ctrl.activeDevice ≠ none := by decide

/-- The chip clause of the two reads: a read up to the array's last byte, and one that runs past it. -/
theorem witness_ReadBufferCompletes :
    ∀ a ∈ [14#32, 15#32], ∃ s : State, s.seq.phase = .idle ∧ s.ctrl.activeDevice ≠ none ∧ s.seq.busUp = true ∧
      s.transport = .reference smallChip ∧ s.io.a0 = a ∧ s.io.a1 = 2 ∧
      (14 + 2 ≤ smallChip.size ∧ smallChip.size < 15 + 2) :=
  fun a _ => ⟨attached smallChip (operands a 2 [] active), rfl, nofun, rfl, rfl, rfl, rfl,
    (by decide : 14 + 2 ≤ 16 ∧ 16 < 15 + 2)⟩

theorem witness_TypedReadsComplete :
    ∀ a ∈ [12#32, 13#32, 14#32, 15#32, 16#32], ∃ s : State, s.seq.phase = .idle ∧ s.ctrl.activeDevice ≠ none ∧
      s.seq.busUp = true ∧ s.transport = .reference smallChip ∧ s.io.a0 = a :=
  fun a _ => ⟨attached smallChip (operands a 0 [] active), rfl, nofun, rfl, rfl, rfl⟩

/-- The bytes the chip's array answers at its edge (R240). -/
theorem test_mem_read_at_the_edge :
    (attached smallChip active).ask (.memRead 14 2) = ⟨true, [0xA5, 0xA5]⟩ ∧
    ((attached smallChip active).ask (.memRead 15 2)).ok = false := by decide

/-- A script, and the chip with the last bytes of its array and one past them. -/
theorem witness_WriteBufferCompletes :
    (∃ s : State, s.seq.phase = .idle ∧ s.ctrl.activeDevice ≠ none ∧ s.io.wbuf.length = s.io.a1.toNat ∧
      s.transport = .scripted (⟨false, []⟩ :: [])) ∧
    (∀ a ∈ [14#32, 15#32], ∃ s : State, s.seq.phase = .idle ∧ s.ctrl.activeDevice ≠ none ∧
      s.io.wbuf.length = s.io.a1.toNat ∧ s.seq.busUp = true ∧ s.transport = .reference smallChip ∧ s.io.a0 = a) :=
  ⟨⟨script [⟨false, []⟩] (operands 0x3000 2 [0x12, 0x34] active), by decide⟩,
    fun a _ => ⟨attached smallChip (operands a 2 [0x12, 0x34] active), rfl, nofun, rfl, rfl, rfl, rfl⟩⟩

/-- CE1. -/
theorem witness_ChipEraseCompletes :
    ∃ s : State, s.seq.phase = .idle ∧ s.ctrl.activeDevice ≠ none ∧ s.config.pollLimit = none ∧
      (∀ b ∈ [0x01#8, 0x01#8], bitsSet b s.config.wipMask = true) ∧ bitsSet 0x00 s.config.wipMask = false ∧
      s.transport = .scripted ([⟨true, []⟩, ⟨true, []⟩] ++ statusAnswers ([0x01, 0x01] ++ [0x00]) ++ []) :=
  ⟨script ([⟨true, []⟩, ⟨true, []⟩] ++ statusAnswers ([0x01, 0x01] ++ [0x00]) ++ []) active, by decide⟩

/-- Both modes and both answers (ES1, ES6). -/
theorem witness_EraseSectorCompletes :
    active.config.eraseSectorResult = .alwaysOk ∧
    ({ active with config := { Config.standard with eraseSectorResult := .propagate } } : State).config.eraseSectorResult
      = .propagate := by decide

theorem witness_EraseBlockNotImplemented :
    active.seq.phase = .idle ∧ active.ctrl.activeDevice ≠ none ∧ active.config.eraseBlockMode = .notImplemented := by
  decide

/-- EB3. -/
theorem witness_EraseBlockSourceBracket :
    ∃ s : State, s.seq.phase = .idle ∧ s.ctrl.activeDevice ≠ none ∧ s.config.eraseBlockMode = .sourceBracket ∧
      s.config.pollLimit = none ∧ bitsSet 0x00 s.config.wipMask = false ∧
      s.transport = .scripted ([⟨true, []⟩] ++ statusAnswers ([] ++ [0x00]) ++ []) :=
  ⟨script ([⟨true, []⟩] ++ statusAnswers ([] ++ [0x00]) ++ [])
    { active with config := { Config.standard with eraseBlockMode := .sourceBracket } }, by decide⟩

theorem witness_ArrayStaysCanonical : ∃ s t : State, s.transport.memoryWf ∧ step s = .next t ∧ t.transport ≠ s.transport :=
  ⟨attached { smallChip with wel := true } (busyAt 0x07 .c2 active), _, (by decide : smallChip.mem.wf), rfl, by decide⟩

theorem witness_ArrayChangedOnlyByThreeSteps :
    ∃ s t : State, exec .opWriteBuffer s = .next t ∧ s.seq.phase ≠ .b1 ∧ s.arrayByte 3 = some 0xA5 :=
  ⟨attached smallChip (busyAt 0x03 .b2 active), _, rfl, by decide, by decide⟩

/-- The last bytes of the array, and one past them. -/
theorem witness_WriteBufferProgramsTheArray :
    ∀ a ∈ [14#32, 15#32], ∃ s : State, s.seq.phase = .b1 ∧ s.seq.busUp = true ∧ s.transport = .reference smallChip ∧
      s.io.wbuf.length = s.io.a1.toNat ∧ s.io.a0 = a ∧ (14 + 2 ≤ smallChip.size ∧ smallChip.size < 15 + 2) :=
  fun a _ => ⟨attached smallChip (operands a 2 [0x12, 0x34] (busyAt 0x03 .b1 active)), rfl, rfl, rfl, rfl, rfl,
    (by decide : 14 + 2 ≤ 16 ∧ 16 < 15 + 2)⟩

/-- The last address of the array, and the one past it. -/
theorem witness_EraseSectorErasesTheArray :
    ∀ a ∈ [15#32, 16#32], ∃ s : State, s.seq.phase = .e2 ∧ s.seq.busUp = true ∧ s.transport = .reference smallChip ∧
      s.config.sectorSize ≠ 0 ∧ s.seq.scratch.addr = a :=
  fun a _ => ⟨attached smallChip (scratch { Scratch.blank with addr := a } (busyAt 0x08 .e2 active)), rfl, rfl, rfl,
    (by decide : Config.standard.sectorSize ≠ 0), rfl⟩

/-- The latch set and nothing in flight; the latch clear; a write in flight. -/
theorem witness_ChipEraseErasesTheArray :
    ∀ chip ∈ [{ smallChip with wel := true }, smallChip, { smallChip with wel := true, busyReads := 1 }],
      ∃ s : State, s.seq.phase = .c2 ∧ s.seq.busUp = true ∧ s.transport = .reference chip ∧ s.config.DistinctCommands :=
  fun chip _ => ⟨attached chip (busyAt 0x07 .c2 active), rfl, rfl, rfl, (by decide : Config.standard.DistinctCommands)⟩

end Sys2Proof.Tests
end

section
/-! The state after reset (10_state.md R45). -/

namespace Sys2Proof.Machine

@[simp] theorem State.resetWith_ctrl (c : Config) : (State.resetWith c).ctrl = Controller.atReset c := rfl
@[simp] theorem State.resetWith_io (c : Config) : (State.resetWith c).io = HostInterface.atReset := rfl
@[simp] theorem State.resetWith_seq (c : Config) : (State.resetWith c).seq = Sequencer.atReset := rfl

/-- Settles O10: `resetWith` puts each of the three register files at its reset record, and these records are R45's
table; the last clause is the definition of `State.reset`. -/
theorem resetLeavesTheSpecsValues : Obligations.ResetLeavesTheSpecsValues := by
  unfold Obligations.ResetLeavesTheSpecsValues
  intro c
  simp only [State.resetWith_ctrl, State.resetWith_io, State.resetWith_seq]
  simp [Controller.atReset, HostInterface.atReset, Sequencer.atReset, State.reset]

end Sys2Proof.Machine
end

section
/-! The reserved operation codes (30_encoding.md R120): which they are, and what a request of one does to an idle engine
(60_exceptions.md R216). -/

namespace Sys2Proof

/-- R101, R120: the decoder has an answer for each of 0x01 to 0x11; every other byte falls to its last arm. -/
theorem decodeRequest_error_iff (b : Byte) : (∃ e, decodeRequest b = .error e) ↔ (b = 0x00 ∨ 0x12 ≤ b.toNat) := by
  unfold decodeRequest
  split
  case h_18 => -- the last arm: `b` is none of the seventeen codes
    simp only [Except.error.injEq, exists_eq', true_iff, imp_false] at *
    bv_omega
  all_goals simp

end Sys2Proof

namespace Sys2Proof.Machine

/-- At an idle engine, `busy <- 0` and `pc <- IDLE` change nothing: only the two result registers are written. -/
theorem State.finish_of_idle {s : State} (hbusy : s.io.busy = false) (hphase : s.seq.phase = .idle) (st r0 : Word) :
    s.finish st r0 = { s with io := { s.io with st := st, r0 := r0 } } := by
  simp only [State.finish, ← hbusy, ← hphase]

/-- R120: an idle engine answers a request of a code that does not decode by the host's writes and the illegal-request
ending. -/
theorem step_of_undecodable_request {s : State} {r : Request} {rest : List HostMove} {e : DecodeError}
    (hinputs : s.inputs = .request r :: rest) (hbusy : s.io.busy = false) (hcode : decodeRequest r.op = .error e) :
    step s = .next (({ s with inputs := rest } : State).hostWrite r).illegalRequest := by
  simp [step, fetch, acceptRequest, hinputs, hbusy, hcode]

/-- Settles O6: the reserved codes are those of the decoder's last arm, and the ending of an illegal request writes only
`st` and `r0`, since the engine is idle already. -/
theorem reservedCodeIsIllegal : Obligations.ReservedCodeIsIllegal := by
  unfold Obligations.ReservedCodeIsIllegal
  refine ⟨decodeRequest_error_iff, fun s r rest hinputs hbusy hphase hreserved => ?_⟩
  obtain ⟨e, hcode⟩ := (decodeRequest_error_iff r.op).2 hreserved
  rw [step_of_undecodable_request hinputs hbusy hcode, State.illegalRequest, State.raise,
    State.finish_of_idle (s := State.hostWrite r { s with inputs := rest }) hbusy hphase]
  rfl

end Sys2Proof.Machine
end

section
/-! The catalog lookup (40_catalog.md R131): the scan from row `k` on, read as one recursion on the catalog. -/

namespace Sys2Proof.Machine

theorem Ident.matchesRow_iff (i : Ident) (d : Descriptor) :
    i.matchesRow d ↔ d.triplet = (i.manufacturer, i.memoryType, i.capacity) := by
  simp [Ident.matchesRow, Descriptor.triplet, and_assoc]

/-- Counting from one row later makes every index found one greater. -/
theorem lookupFrom_succ (i : Ident) (catalog : List Descriptor) (k : Nat) :
    lookupFrom i (k + 1) catalog = (lookupFrom i k catalog).map (Prod.map (· + 1) id) := by
  induction catalog generalizing k with
  | nil => rfl
  | cons row rest ih =>
    by_cases hrow : i.matchesRow row
    · simp [lookupFrom, hrow]
    · simp [lookupFrom, hrow, ih]

@[simp] theorem lookup_nil (i : Ident) : lookup [] i = none := rfl

theorem lookup_cons (row : Descriptor) (rest : List Descriptor) (i : Ident) :
    lookup (row :: rest) i =
      if i.matchesRow row then some (0, row) else (lookup rest i).map (Prod.map (· + 1) id) := by
  simp only [lookup, lookupFrom, lookupFrom_succ]

theorem lookup_eq_none_iff (catalog : List Descriptor) (i : Ident) :
    lookup catalog i = none ↔ ∀ d ∈ catalog, ¬ i.matchesRow d := by
  induction catalog with
  | nil => simp
  | cons row rest ih =>
    by_cases hrow : i.matchesRow row
    · simp [lookup_cons, hrow]
    · simp [lookup_cons, hrow, ih]

/-- The rows before row `k + 1` are the first row and the rows before row `k` of the rest. -/
theorem no_match_before_succ_iff {row : Descriptor} {i : Ident} (hrow : ¬ i.matchesRow row) (rest : List Descriptor)
    (k : Nat) :
    (∀ j d', j < k + 1 → (row :: rest)[j]? = some d' → ¬ i.matchesRow d') ↔
      ∀ j d', j < k → rest[j]? = some d' → ¬ i.matchesRow d' := by
  constructor
  · exact fun h j d' hj => h (j + 1) d' (Nat.succ_lt_succ hj)
  · rintro h (_ | j) d' hj hd'
    · cases hd'; exact hrow
    · exact h j d' (Nat.lt_of_succ_lt_succ hj) hd'

/-- R131: row `k` is found when it matches and no earlier row does. -/
theorem lookup_eq_some_iff (catalog : List Descriptor) (i : Ident) (k : Nat) (d : Descriptor) :
    lookup catalog i = some (k, d) ↔
      catalog[k]? = some d ∧ i.matchesRow d ∧
        ∀ j d', j < k → catalog[j]? = some d' → ¬ i.matchesRow d' := by
  induction catalog generalizing k with
  | nil => simp
  | cons row rest ih =>
    by_cases hrow : i.matchesRow row
    · cases k with
      | zero => -- the first row is the answer
        suffices row = d → i.matchesRow d by simpa [lookup_cons, hrow] using this
        rintro rfl
        exact hrow
      | succ k => -- the first row matches before row `k + 1`
        refine iff_of_false (by simp [lookup_cons, hrow]) ?_
        rintro ⟨-, -, hfirst⟩
        exact hfirst 0 row k.succ_pos rfl hrow
    · cases k with
      | zero => -- row 0 is the first row, which does not match
        refine iff_of_false (by simp [lookup_cons, hrow]) ?_
        rintro ⟨⟨⟩, hmatch, -⟩
        exact hrow hmatch
      | succ k => -- the answer is that of the rest
        rw [no_match_before_succ_iff hrow, List.getElem?_cons_succ, ← ih k]
        simp [lookup_cons, hrow]

/-- Settles O34: a row matches exactly when its triplet is the one asked for, so the two answers of `lookup` are those
of `lookup_eq_some_iff` and `lookup_eq_none_iff`. -/
theorem lookupFindsFirstMatch : Obligations.LookupFindsFirstMatch := by
  unfold Obligations.LookupFindsFirstMatch
  intro catalog i
  simp only [ne_eq, ← Ident.matchesRow_iff]
  exact ⟨lookup_eq_some_iff catalog i, lookup_eq_none_iff catalog i⟩

end Sys2Proof.Machine
end

section
/-! INITIALIZE outside its busy-waits (41_initialize.md R141 to R155): one equation per label, then the transport's
answers, step 3, step 7 and step 11, each said once. The busy-waits at I4, I5 and I10 are `exec_pollAt`. -/

namespace Sys2Proof.Machine

section
variable {s : State}

theorem exec_initialize_idle (h : s.seq.phase = .idle) : exec .opInitialize s = .next (s.startAt .g) := by
  simp [exec, execInitialize, h]

/-- R232: the gate is open while no device is active. -/
theorem exec_initialize_g (h : s.seq.phase = .g) (hdevice : s.ctrl.activeDevice = none) :
    exec .opInitialize s = .next (s.goto .i1) := by
  simp [exec, execInitialize, h, State.initialized, hdevice]

theorem exec_initialize_i1 (h : s.seq.phase = .i1) : exec .opInitialize s = .next (s.beginBus.goto .i2) := by
  simp [exec, execInitialize, h]

theorem exec_initialize_i2 (h : s.seq.phase = .i2) : exec .opInitialize s = .next (s.readIdent.goto .i3) := by
  simp [exec, execInitialize, h]

theorem exec_initialize_i3 (h : s.seq.phase = .i3) : exec .opInitialize s = .next s.identify := by
  simp [exec, execInitialize, h]

theorem exec_initialize_i6a (h : s.seq.phase = .i6a) :
    exec .opInitialize s = .next ((s.runCommand .rsten).goto .i6b) := by
  simp [exec, execInitialize, h]

theorem exec_initialize_i6b (h : s.seq.phase = .i6b) :
    exec .opInitialize s = .next ((s.runCommand .rst).goto .i6c) := by
  simp [exec, execInitialize, h]

theorem exec_initialize_i6c (h : s.seq.phase = .i6c) : exec .opInitialize s = .next ((s.delay 30).goto .i7) := by
  simp [exec, execInitialize, h, Config.resetDelayUs]

theorem exec_initialize_i7 (h : s.seq.phase = .i7) : exec .opInitialize s = .next s.quadTest := by
  simp [exec, execInitialize, h]

theorem exec_initialize_i7r (h : s.seq.phase = .i7r) : exec .opInitialize s = .next s.quadRead := by
  simp [exec, execInitialize, h]

theorem exec_initialize_i7a (h : s.seq.phase = .i7a) :
    exec .opInitialize s = .next ((s.runCommand .wren).goto .i7b) := by
  simp [exec, execInitialize, h]

theorem exec_initialize_i7b (h : s.seq.phase = .i7b) : exec .opInitialize s = .next s.buildImage := by
  simp [exec, execInitialize, h]

theorem exec_initialize_i7c (h : s.seq.phase = .i7c) : exec .opInitialize s = .next s.quadEnableWrite := by
  simp [exec, execInitialize, h]

/-- R151: a part with sector protection has it cleared. -/
theorem exec_initialize_i8_protected (h : s.seq.phase = .i8)
    (hprotect : s.seq.scratch.device.hasSectorProtection = true) : exec .opInitialize s = .next (s.goto .i8a) := by
  simp [exec, execInitialize, h, hprotect]

/-- R151: a part without sector protection skips step 8. -/
theorem exec_initialize_i8_unprotected (h : s.seq.phase = .i8)
    (hprotect : s.seq.scratch.device.hasSectorProtection = false) : exec .opInitialize s = .next (s.goto .i9) := by
  simp [exec, execInitialize, h, hprotect]

theorem exec_initialize_i8a (h : s.seq.phase = .i8a) :
    exec .opInitialize s = .next ((s.runCommand .wren).goto .i8b) := by
  simp [exec, execInitialize, h]

theorem exec_initialize_i8b (h : s.seq.phase = .i8b) :
    exec .opInitialize s = .next ((s.writeStatus .wrsr1 [0x00]).goto .i9) := by
  simp [exec, execInitialize, h]

theorem exec_initialize_i9 (h : s.seq.phase = .i9) :
    exec .opInitialize s = .next ((s.runCommand .wrdi).goto .i10) := by
  simp [exec, execInitialize, h]

theorem exec_initialize_i11 (h : s.seq.phase = .i11) :
    exec .opInitialize s = .next (s.recordDevice.goto .i12) := by
  simp [exec, execInitialize, h]

theorem exec_initialize_i12 (h : s.seq.phase = .i12) : exec .opInitialize s = .next (s.endOk 1) := by
  simp [exec, execInitialize, h]

end

/-- R72, R142: the identification is three bytes. -/
theorem exists_ask_readCommand_three (op : Byte) (s : State) :
    ∃ m y c, (s.ask (.readCommand op 3)).bytes = [m, y, c] :=
  List.length_eq_three.1 (ask_bytes_length ..)

/-- R143: both branches of step 3 leave the registers outside the host interface, and issue no event. -/
theorem identify_frame (s : State) :
    s.identify.config = s.config ∧ s.identify.ctrl = s.ctrl ∧ s.identify.trace = s.trace ∧
      s.identify.seq.busUp = s.seq.busUp := by
  obtain ⟨-, h⟩ | ⟨k, d, -, h⟩ := identify_cases s <;> simp [h]

theorem identify_of_lookup_none {s : State} (h : lookup s.config.catalog s.seq.scratch.ident = none) :
    s.identify = s.endFailed .unsupportedDevice 0 := by
  simp [State.identify, h]

theorem identify_of_lookup_some {s : State} {k : Nat} {d : Descriptor}
    (h : lookup s.config.catalog s.seq.scratch.ident = some (k, d)) :
    s.identify = (s.withScratch { s.seq.scratch with cand := some k, device := d }).goto .i4 := by
  simp [State.identify, h]

theorem quadTest_of_mask_zero {s : State} (h : s.seq.scratch.device.quadEnableBitMask = 0) :
    s.quadTest = s.goto .i8 := by
  simp [State.quadTest, quadEnableApplies, h]

theorem quadTest_of_mask_ne_zero {s : State} (h : s.seq.scratch.device.quadEnableBitMask ≠ 0) :
    s.quadTest = s.goto .i7r := by
  rw [State.quadTest, quadEnableApplies, if_pos (bne_iff_ne.2 h)]

/-- R148: the byte by which step 7r reads the register that holds the bit. -/
theorem byteOf_quadStatusCommand (c : Config) (d : Descriptor) :
    c.byteOf (quadStatusCommand d) = if d.singleStatusByte then c.cmdRdsr1 else c.cmdRdsr2 := by
  cases h : d.singleStatusByte <;> simp [quadStatusCommand, h, Config.byteOf]

/-- R148: where step 7r goes, by the byte it reads. -/
theorem quadRead_phase {s : State} {b : Byte}
    (h : (s.ask (.readCommand (s.config.byteOf (quadStatusCommand s.seq.scratch.device)) 1)).bytes = [b]) :
    s.quadRead.seq.phase = if b &&& s.seq.scratch.device.quadEnableBitMask = 0 then .i7a else .i8 := by
  by_cases hbit : b &&& s.seq.scratch.device.quadEnableBitMask = 0 <;> simp [State.quadRead, bitsSet, h, hbit]

/-- R150: with the image of step 7b, step 7c records exactly the write of the three-way branch. -/
theorem quadEnableWrite_trace {s : State} (h0 : s.seq.scratch.img0 = 0)
    (h1 : s.seq.scratch.img1 = s.seq.scratch.device.quadEnableBitMask) :
    s.quadEnableWrite.trace = s.trace ++ [quadEnableEvent s.config s.seq.scratch.device] := by
  by_cases hsplit : s.seq.scratch.device.writeStatusRegisterSplit = true
  · simp [State.quadEnableWrite, quadWrite, quadEnableEvent, hsplit, h1, Config.byteOf]
  · by_cases hsingle : s.seq.scratch.device.singleStatusByte = true <;>
      simp [State.quadEnableWrite, quadWrite, quadEnableEvent, hsplit, hsingle, h0, h1, Config.byteOf]

/-- R154: the page count is the integer quotient of the size by 256. -/
theorem pageCountOf_eq_ofNat (n : Word) : pageCountOf n = BitVec.ofNat 32 (n.toNat / 256) := by
  rw [pageCountOf, BitVec.udiv_def]
  rfl

end Sys2Proof.Machine
end

section
/-! INITIALIZE, the obligations: each runs the labels one after another by their equations. -/

namespace Sys2Proof.Machine

/-- Settles O35: five steps; the identification is the transport's three bytes, and the two answers of the catalog
lookup are the two branches of step 3. -/
theorem initializeIdentifies : Obligations.InitializeIdentifies := by
  unfold Obligations.InitializeIdentifies
  intro s hidle hdevice
  let s3 := (((s.startAt .g).goto .i1).beginBus).goto .i2
  let s4 := s3.readIdent.goto .i3
  obtain ⟨m, y, c, hid⟩ := exists_ask_readCommand_three s.config.cmdRdid s3
  have hident : s4.seq.scratch.ident = ⟨m, y, c⟩ := congrArg Ident.ofResponse hid
  have hevents : s4.trace = s.trace ++ [.begin, .readCmd s.config.cmdRdid 3 [m, y, c]] := by
    simp [s4, s3, ← hid]
  obtain ⟨hconfig, hctrl, htrace, hbus⟩ := identify_frame s4
  refine ⟨_, _, s3, s4, s4.identify, m, y, c, exec_initialize_idle hidle, exec_initialize_g rfl hdevice,
    exec_initialize_i1 rfl, exec_initialize_i2 rfl, exec_initialize_i3 rfl, hid, htrace.trans hevents, hbus, hctrl,
    hconfig, fun hnone => ?_, fun k d hsome => ?_⟩
  · rw [identify_of_lookup_none (hident ▸ hnone)]
    exact ⟨rfl, rfl, rfl, rfl⟩
  · rw [identify_of_lookup_some (hident ▸ hsome)]
    exact ⟨rfl, rfl, rfl, rfl, rfl, rfl⟩

/-- Settles O36: the labels I6a, I6b and I6c, one event each. -/
theorem initializeResetsTheChip : Obligations.InitializeResetsTheChip := by
  unfold Obligations.InitializeResetsTheChip
  intro s h
  let s1 := (s.runCommand .rsten).goto .i6b
  refine ⟨s1, _, _, (s.ask (.runCommand s.config.cmdRsten)).ok, (s1.ask (.runCommand s.config.cmdRst)).ok,
    exec_initialize_i6a h, exec_initialize_i6b rfl, exec_initialize_i6c rfl, ?_⟩
  simp [s1, State.Kept, Config.byteOf]

/-- Settles O37: mask 0 is the skipped step; otherwise the one byte that I7r reads decides. -/
theorem quadEnableTest : Obligations.QuadEnableTest := by
  unfold Obligations.QuadEnableTest
  intro s h
  constructor
  · intro hmask
    rw [exec_initialize_i7 h, quadTest_of_mask_zero hmask, State.goto]
  · intro hmask
    have hbyte := ask_readCommand_one (s.config.byteOf (quadStatusCommand s.seq.scratch.device)) (s.goto .i7r)
    simp only [← byteOf_quadStatusCommand]
    refine ⟨s.goto .i7r, (s.goto .i7r).quadRead, _, ?_, exec_initialize_i7r rfl, hbyte, ?_, ?_, rfl, rfl,
      quadRead_phase hbyte⟩
    · rw [exec_initialize_i7 h, quadTest_of_mask_ne_zero hmask]
    · rw [← hbyte]
      rfl
    · simp [State.Kept, State.quadRead]

/-- Settles O38: write-enable, the image, and the one write of `quadEnableWrite_trace`. -/
theorem quadEnableWritePaths : Obligations.QuadEnableWritePaths := by
  unfold Obligations.QuadEnableWritePaths
  intro s h
  let s2 := ((s.runCommand .wren).goto .i7b).buildImage
  have hwrite : s2.quadEnableWrite.trace = s2.trace ++ [quadEnableEvent s.config s.seq.scratch.device] :=
    quadEnableWrite_trace rfl rfl
  refine ⟨_, s2, _, (s.ask (.runCommand s.config.cmdWren)).ok, exec_initialize_i7a h, exec_initialize_i7b rfl,
    exec_initialize_i7c rfl, rfl, ?_, ?_, hwrite.trans ?_⟩
  · simp [s2, State.Kept, State.buildImage, State.quadEnableWrite]
  · simp [s2, State.buildImage, State.quadEnableWrite]
  · simp [s2, State.buildImage, quadEnableEvent, Config.byteOf]

/-- Settles O39: step 8 by `has_sector_protection`; both ways lead to I9, which sends write-disable. -/
theorem protectionClearAndWriteDisable : Obligations.ProtectionClearAndWriteDisable := by
  unfold Obligations.ProtectionClearAndWriteDisable
  intro s h
  constructor
  · intro hprotect
    let s1 := s.goto .i8a
    let s2 := (s1.runCommand .wren).goto .i8b
    let s3 := (s2.writeStatus .wrsr1 [0x00]).goto .i9
    refine ⟨s1, s2, s3, _, (s1.ask (.runCommand s.config.cmdWren)).ok, (s3.ask (.runCommand s.config.cmdWrdi)).ok,
      exec_initialize_i8_protected h hprotect, exec_initialize_i8a rfl, exec_initialize_i8b rfl,
      exec_initialize_i9 rfl, ?_⟩
    simp [s1, s2, s3, State.Kept, Config.byteOf]
  · intro hprotect
    let s1 := s.goto .i9
    refine ⟨s1, _, (s1.ask (.runCommand s.config.cmdWrdi)).ok, exec_initialize_i8_unprotected h hprotect,
      exec_initialize_i9 rfl, ?_⟩
    simp [s1, State.Kept, Config.byteOf]

/-- Settles O40: I11 records the row, I12 completes with 1; the page count is the integer quotient. -/
theorem initializeRecordsAndCompletes : Obligations.InitializeRecordsAndCompletes := by
  unfold Obligations.InitializeRecordsAndCompletes
  intro s h
  refine ⟨_, _, exec_initialize_i11 h, exec_initialize_i12 rfl, ⟨rfl, rfl, rfl, rfl⟩, ?_, rfl, rfl, rfl, rfl⟩
  rw [← pageCountOf_eq_ofNat]
  rfl

end Sys2Proof.Machine
end

section
/-! The array of the reference chip under a primitive that does not touch it (60_exceptions.md R240). -/

namespace Sys2Proof.Machine

@[simp] theorem Chip.afterRead_mem (p : Config) (op : Byte) (c : Chip) : (c.afterRead p op).mem = c.mem := by
  unfold Chip.afterRead
  split <;> rfl

@[simp] theorem Chip.afterRead_size (p : Config) (op : Byte) (c : Chip) : (c.afterRead p op).size = c.size := by
  unfold Chip.afterRead
  split <;> rfl

/-- A primitive that keeps the chip's array keeps every byte of it in the machine. -/
theorem arrayKept_of_after {s t : State} {c : Config} {p : Primitive}
    (hchip : ∀ chip : Chip, (chip.after c p).mem = chip.mem ∧ (chip.after c p).size = chip.size)
    (h : t.transport = s.transport.after c p) : s.ArrayKept t := by
  intro addr
  cases hs : s.transport with
  | oracle => simp [State.arrayByte, h, hs, Transport.after]
  | scripted answers => simp [State.arrayByte, h, hs, Transport.after]
  | reference chip => simp [State.arrayByte, h, hs, Transport.after, hchip chip]

/-- R66: a bus read keeps the array. -/
theorem arrayKept_of_readCommand {s t : State} {c : Config} {op : Byte} {n : Nat}
    (h : t.transport = s.transport.after c (.readCommand op n)) : s.ArrayKept t :=
  arrayKept_of_after (p := .readCommand op n)
    (fun chip => ⟨Chip.afterRead_mem c op chip, Chip.afterRead_size c op chip⟩) h

end Sys2Proof.Machine
end

section
/-! The identification queries and the geometry accessors (42_identification.md): the packing of the identification
bytes (R73), one equation per label, and the run that the two queries share. -/

namespace Sys2Proof.Machine

/-- R73: `++` puts its left operand above the bits of its right one. -/
theorem toNat_append_eq_add {m n : Nat} (x : BitVec m) (y : BitVec n) :
    (x ++ y).toNat = x.toNat * 2 ^ n + y.toNat := by
  rw [BitVec.toNat_append, ← Nat.shiftLeft_add_eq_or_of_lt y.isLt, Nat.shiftLeft_eq]

/-- R73, R171: the manufacturer byte, then the byte that `MFR_DEV_DEVICE_INDEX` picks. -/
theorem packMfrDev_toNat (m y c : Byte) (k : DeviceIndex) :
    (packMfrDev ⟨m, y, c⟩ k).toNat = 256 * m.toNat + (if k = .one then y.toNat else c.toNat) := by
  rw [packMfrDev, BitVec.toNat_setWidth_of_le (by decide), toNat_append_eq_add, Nat.mul_comm]
  cases k <;> rfl

/-- R73, R172: all three bytes, most significant first. -/
theorem packJedec_toNat (m y c : Byte) :
    (packJedec ⟨m, y, c⟩).toNat = 65536 * m.toNat + 256 * y.toNat + c.toNat := by
  rw [packJedec, BitVec.toNat_setWidth_of_le (by decide), toNat_append_eq_add, toNat_append_eq_add]
  dsimp only
  omega

section
variable {s : State}

theorem exec_readMfrDevId_idle (h : s.seq.phase = .idle) : exec .opReadMfrDevId s = .next (s.startAt .m1) := by
  simp [exec, execReadMfrDevId, h]

theorem exec_readMfrDevId_m1 (h : s.seq.phase = .m1) : exec .opReadMfrDevId s = .next (s.readIdent.goto .m2) := by
  simp [exec, execReadMfrDevId, h]

theorem exec_readMfrDevId_m2 (h : s.seq.phase = .m2) :
    exec .opReadMfrDevId s = .next (s.endOk (packMfrDev s.seq.scratch.ident s.config.mfrDevDeviceIndex)) := by
  simp [exec, execReadMfrDevId, h]

theorem exec_readJedecId_idle (h : s.seq.phase = .idle) : exec .opReadJedecId s = .next (s.startAt .j1) := by
  simp [exec, execReadJedecId, h]

theorem exec_readJedecId_j1 (h : s.seq.phase = .j1) : exec .opReadJedecId s = .next (s.readIdent.goto .j2) := by
  simp [exec, execReadJedecId, h]

theorem exec_readJedecId_j2 (h : s.seq.phase = .j2) :
    exec .opReadJedecId s = .next (s.endOk (packJedec s.seq.scratch.ident)) := by
  simp [exec, execReadJedecId, h]

theorem accessor_idle (h : s.seq.phase = .idle) (value : Word) : accessor value s = .next (s.startAt .acc) := by
  simp [accessor, h]

theorem accessor_acc (h : s.seq.phase = .acc) (value : Word) : accessor value s = .next (s.endOk value) := by
  simp [accessor, h]

end

/-- R170 to R172: what a query does whose labels are `p` (the identification read) and `q` (the end with `pack`'s
value): one event, the three bytes of the transport packed, nothing else of the engine or the array changed. -/
theorem identification_run {i : Instr} {p q : Phase} {pack : Config → Ident → Word}
    (hstart : ∀ {u : State}, u.seq.phase = .idle → exec i u = .next (u.startAt p))
    (hread : ∀ {u : State}, u.seq.phase = p → exec i u = .next (u.readIdent.goto q))
    (hend : ∀ {u : State}, u.seq.phase = q → exec i u = .next (u.endOk (pack u.config u.seq.scratch.ident)))
    {s : State} (hidle : s.seq.phase = .idle) :
    ∃ s1 s2 t m y c, exec i s = .next s1 ∧ exec i s1 = .next s2 ∧ exec i s2 = .next t ∧ s.Kept t ∧ s.ArrayKept t ∧
      (s1.ask (.readCommand s.config.cmdRdid 3)).bytes = [m, y, c] ∧
      t.trace = s.trace ++ [.readCmd s.config.cmdRdid 3 [m, y, c]] ∧ t.EndedWith 0 (pack s.config ⟨m, y, c⟩) := by
  let s1 := s.startAt p
  let s2 := s1.readIdent.goto q
  let t := s2.endOk (pack s.config s2.seq.scratch.ident)
  obtain ⟨m, y, c, hid⟩ := exists_ask_readCommand_three s.config.cmdRdid s1
  have hident : s2.seq.scratch.ident = ⟨m, y, c⟩ := congrArg Ident.ofResponse hid
  refine ⟨s1, s2, t, m, y, c, hstart hidle, hread rfl, hend rfl, ?_, arrayKept_of_readCommand rfl, hid, ?_, ?_⟩
  · exact ⟨rfl, rfl, rfl, rfl, rfl, rfl, rfl, rfl⟩
  · rw [← hid]
    rfl
  · rw [← hident]
    exact ⟨rfl, rfl, rfl, rfl⟩

/-- Settles O45: the two queries are `identification_run` with the two packings. -/
theorem identificationQueries : Obligations.IdentificationQueries := by
  unfold Obligations.IdentificationQueries
  constructor
  · intro s hidle
    obtain ⟨s1, s2, t, m, y, c, h1, h2, h3, hkept, harray, hid, htrace, hbusy, hphase, hst, hr0⟩ :=
      identification_run (pack := fun config ident => packMfrDev ident config.mfrDevDeviceIndex)
        exec_readMfrDevId_idle exec_readMfrDevId_m1 exec_readMfrDevId_m2 hidle
    exact ⟨s1, s2, t, m, y, c, h1, h2, h3, hkept, harray, hid, htrace, ⟨hbusy, hphase, hst, rfl⟩,
      hr0 ▸ packMfrDev_toNat ..⟩
  · intro s hidle
    obtain ⟨s1, s2, t, m, y, c, h1, h2, h3, hkept, harray, hid, htrace, hbusy, hphase, hst, hr0⟩ :=
      identification_run (pack := fun _ => packJedec)
        exec_readJedecId_idle exec_readJedecId_j1 exec_readJedecId_j2 hidle
    exact ⟨s1, s2, t, m, y, c, h1, h2, h3, hkept, harray, hid, htrace, ⟨hbusy, hphase, hst, rfl⟩,
      hr0 ▸ packJedec_toNat ..⟩

/-- R175 to R177: what an operation does that is `accessor` of the controller register `register`. -/
theorem accessor_run {i : Instr} {register : Controller → Word} (harm : ∀ u, exec i u = accessor (register u.ctrl) u)
    {s : State} (hidle : s.seq.phase = .idle) :
    ∃ s1 t, exec i s = .next s1 ∧ exec i s1 = .next t ∧ s.Kept t ∧ t.EndedWith 0 (register s.ctrl) ∧
      t.trace = s.trace ∧ t.transport = s.transport := by
  refine ⟨s.startAt .acc, (s.startAt .acc).endOk (register s.ctrl), ?_, ?_, ?_, ?_, rfl, rfl⟩
  · rw [harm, accessor_idle hidle]
  · rw [harm, accessor_acc rfl, State.startAt_ctrl]
  · exact ⟨rfl, rfl, rfl, rfl, rfl, rfl, rfl, rfl⟩
  · exact ⟨rfl, rfl, rfl, rfl⟩

/-- Settles O46: the three operations are the shared accessor of their registers. -/
theorem geometryAccessors : Obligations.GeometryAccessors := by
  unfold Obligations.GeometryAccessors
  intro s hidle
  exact ⟨accessor_run (register := Controller.totalSize) (fun _ => rfl) hidle,
    accessor_run (register := Controller.pageSize) (fun _ => rfl) hidle,
    accessor_run (register := Controller.pageCount) (fun _ => rfl) hidle⟩

end Sys2Proof.Machine
end

section
/-! The array of the reference chip under a run command other than chip-erase (60_exceptions.md R240), whatever bytes
the configuration gives the commands. -/

namespace Sys2Proof.Machine

/-- A byte that names several commands is never read as chip-erase: `commandOf` asks for that byte last. -/
theorem commandOf_byteOf_ne_ce (c : Config) {k : BusCommand} (hk : k ≠ .ce) :
    c.commandOf (c.byteOf k) ≠ some .ce := by
  intro h
  unfold Config.commandOf at h
  split_ifs at h <;> cases h
  -- the arm of chip-erase is left: the byte is none of the nine asked for before it
  cases k with
  | ce => exact hk rfl
  | _ => simp_all only [Config.byteOf, not_true_eq_false]

theorem Chip.resetIfArmed_array (p : Config) (c : Chip) :
    (c.resetIfArmed p).mem = c.mem ∧ (c.resetIfArmed p).size = c.size := by
  unfold Chip.resetIfArmed
  split <;> exact ⟨rfl, rfl⟩

theorem Chip.afterRun_array {p : Config} {op : Byte} (hop : p.commandOf op ≠ some .ce) (c : Chip) :
    (c.afterRun p op).mem = c.mem ∧ (c.afterRun p op).size = c.size := by
  unfold Chip.afterRun
  split
  case h_1 => split <;> exact ⟨rfl, rfl⟩ -- write-enable, with nothing in flight or ignored
  case h_4 => exact c.resetIfArmed_array p -- chip reset
  case h_5 hce => exact absurd hce hop -- chip-erase
  all_goals exact ⟨rfl, rfl⟩

/-- R68: a run command other than chip-erase keeps the array. -/
theorem arrayKept_of_runCommand {s t : State} {c : Config} {k : BusCommand} (hk : k ≠ .ce)
    (h : t.transport = s.transport.after c (.runCommand (c.byteOf k))) : s.ArrayKept t :=
  arrayKept_of_after (p := .runCommand (c.byteOf k)) (Chip.afterRun_array (commandOf_byteOf_ne_ce c hk)) h

end Sys2Proof.Machine
end

section
/-! The status reads and write-enable (43_status_access.md R180 to R182): one equation per label, and the run that the
two reads share. -/

namespace Sys2Proof.Machine

section
variable {s : State}

theorem statusRead_idle (h : s.seq.phase = .idle) (k : BusCommand) : statusRead k s = .next (s.startAt .s1) := by
  simp [statusRead, h]

theorem statusRead_s1 (h : s.seq.phase = .s1) (k : BusCommand) :
    statusRead k s = .next ((s.readStatus k).goto .s2) := by
  simp [statusRead, h]

theorem statusRead_s2 (h : s.seq.phase = .s2) (k : BusCommand) :
    statusRead k s = .next (s.endOk s.seq.scratch.status.zext) := by
  simp [statusRead, h]

theorem exec_writeEnable_idle (h : s.seq.phase = .idle) : exec .opWriteEnable s = .next (s.startAt .w1) := by
  simp [exec, execWriteEnable, h]

theorem exec_writeEnable_w1 (h : s.seq.phase = .w1) :
    exec .opWriteEnable s = .next ((s.runCommand .wren).goto .w2) := by
  simp [exec, execWriteEnable, h]

theorem exec_writeEnable_w2 (h : s.seq.phase = .w2) :
    exec .opWriteEnable s = .next (if s.seq.scratch.ok then s.endOk 1 else s.endFailed .transportFailure 0) := by
  simp [exec, execWriteEnable, h]

end

/-- R11: the word of the byte's own number. -/
theorem zext_eq_ofNat (b : Byte) : b.zext = BitVec.ofNat 32 b.toNat :=
  (BitVec.ofNat_toNat 32 b).symm

/-- R180, R181: what an operation does that is `statusRead` of the command `k`: one event, the transport's byte whole,
nothing else of the engine or the array changed. -/
theorem statusRead_run {i : Instr} {k : BusCommand} (harm : ∀ u, exec i u = statusRead k u) {s : State}
    (hidle : s.seq.phase = .idle) :
    ∃ s1 s2 t b, exec i s = .next s1 ∧ exec i s1 = .next s2 ∧ exec i s2 = .next t ∧ s.Kept t ∧ s.ArrayKept t ∧
      (s1.ask (.readCommand (s.config.byteOf k) 1)).bytes = [b] ∧
      t.trace = s.trace ++ [.readCmd (s.config.byteOf k) 1 [b]] ∧ t.EndedWith 0 (BitVec.ofNat 32 b.toNat) := by
  let s1 := s.startAt .s1
  let s2 := (s1.readStatus k).goto .s2
  have hbyte := ask_readCommand_one (s.config.byteOf k) s1
  refine ⟨s1, s2, s2.endOk s2.seq.scratch.status.zext, _, ?_, ?_, ?_, ?_, arrayKept_of_readCommand rfl, hbyte, ?_, ?_⟩
  · rw [harm, statusRead_idle hidle]
  · rw [harm, statusRead_s1 rfl]
  · rw [harm, statusRead_s2 rfl]
  · exact ⟨rfl, rfl, rfl, rfl, rfl, rfl, rfl, rfl⟩
  · rw [← hbyte]
    rfl
  · exact ⟨rfl, rfl, rfl, zext_eq_ofNat _⟩

/-- Settles O47: the two operations are the shared status read of their registers. -/
theorem statusReads : Obligations.StatusReads := by
  unfold Obligations.StatusReads
  exact ⟨fun s hidle => statusRead_run (k := .rdsr1) (fun _ => rfl) hidle,
    fun s hidle => statusRead_run (k := .rdsr2) (fun _ => rfl) hidle⟩

/-- R15: an operation that ends by the transport's boolean `ok`: both endings leave the rest of the engine and the
environment alone, and `ok` decides the results. -/
theorem endedWith_of_boolean {s t : State} {ok : Bool} {v w : Word}
    (ht : t = if ok then s.endOk v else s.endFailed .transportFailure w) :
    s.Kept t ∧ t.trace = s.trace ∧ t.transport = s.transport ∧
      (ok = true → t.EndedWith 0 v) ∧ (ok = false → t.EndedWith 2 w) := by
  subst ht
  cases ok with
  | true => exact ⟨⟨rfl, rfl, rfl, rfl, rfl, rfl, rfl, rfl⟩, rfl, rfl, fun _ => ⟨rfl, rfl, rfl, rfl⟩, nofun⟩
  | false => exact ⟨⟨rfl, rfl, rfl, rfl, rfl, rfl, rfl, rfl⟩, rfl, rfl, nofun, fun _ => ⟨rfl, rfl, rfl, rfl⟩⟩

/-- Settles O48: W1 sends the command and keeps its boolean, which at W2 decides between the two endings. -/
theorem writeEnableReportsTheTransport : Obligations.WriteEnableReportsTheTransport := by
  unfold Obligations.WriteEnableReportsTheTransport
  intro s hidle
  let s1 := s.startAt .w1
  let s2 := (s1.runCommand .wren).goto .w2
  obtain ⟨hkept, htrace, htransport, hsucceeds, hfails⟩ :=
    endedWith_of_boolean (s := s2) (ok := s2.seq.scratch.ok) (v := 1) (w := 0) rfl
  have harray := arrayKept_of_runCommand (s := s) (k := .wren) nofun htransport
  exact ⟨s1, s2, _, s2.seq.scratch.ok, exec_writeEnable_idle hidle, exec_writeEnable_w1 rfl, exec_writeEnable_w2 rfl,
    hkept, harray, rfl, htrace, hsucceeds, hfails⟩

end Sys2Proof.Machine
end

section
/-! The lifecycle gate of the operations that need an active device (44_bulk_transfer.md R189, 60_exceptions.md R231):
where they begin, and how the gate turns them away. -/

namespace Sys2Proof.Machine

variable {s : State} {i : Instr}

/-- R231: every gated operation begins at its gate. -/
theorem exec_gated_idle (hgated : isGated i = true) (h : s.seq.phase = .idle) : exec i s = .next (s.startAt .g) := by
  cases i with
  | opReadBuffer => simp [exec, execReadBuffer, h]
  | opWriteBuffer => simp [exec, execWriteBuffer, h]
  | opRead8 => simp [exec, execRead8, typedRead, h]
  | opRead16 => simp [exec, execRead16, typedRead, h]
  | opRead32 => simp [exec, execRead32, typedRead, h]
  | opChipErase => simp [exec, execChipErase, h]
  | opEraseSector => simp [exec, execEraseSector, h]
  | opEraseBlock => simp [exec, execEraseBlock, h]
  | _ => cases hgated

/-- R231: at its gate a gated operation goes on to some label of its own, or fails with its failure value. -/
theorem exec_gated_g (hgated : isGated i = true) (h : s.seq.phase = .g) :
    ∃ p, exec i s = .next (s.gate (failureValueOf s.config i) p) := by
  cases i with
  | opReadBuffer => exact ⟨.b1, by simp [exec, execReadBuffer, failureValueOf, h]⟩
  | opWriteBuffer => exact ⟨.b1, by simp [exec, execWriteBuffer, failureValueOf, h]⟩
  | opRead8 => exact ⟨.b1, by simp [exec, execRead8, typedRead, failureValueOf, h]⟩
  | opRead16 => exact ⟨.b1, by simp [exec, execRead16, typedRead, failureValueOf, h]⟩
  | opRead32 => exact ⟨.b1, by simp [exec, execRead32, typedRead, failureValueOf, h]⟩
  | opChipErase => exact ⟨.c1, by simp [exec, execChipErase, failureValueOf, h]⟩
  | opEraseSector => exact ⟨.e1, by simp [exec, execEraseSector, failureValueOf, h]⟩
  | opEraseBlock =>
    exact ⟨eraseBlockEntry s.config.eraseBlockMode, by simp [exec, execEraseBlock, failureValueOf, h]⟩
  | _ => cases hgated

theorem gate_of_activeDevice_none (hdevice : s.ctrl.activeDevice = none) (v : Word) (p : Phase) :
    s.gate v p = s.endFailed .stateError v := by
  simp [State.gate, State.initialized, hdevice]

theorem gate_of_activeDevice (hdevice : s.ctrl.activeDevice ≠ none) (v : Word) (p : Phase) : s.gate v p = s.goto p := by
  rw [State.gate, State.initialized, if_pos (Option.isSome_iff_ne_none.2 hdevice)]

/-- R189, R231: without an active device every gated operation is turned away. -/
theorem turnedAway_of_gated (hgated : isGated i = true) (hidle : s.seq.phase = .idle)
    (hdevice : s.ctrl.activeDevice = none) : s.TurnedAway i := by
  obtain ⟨p, hgate⟩ := exec_gated_g (s := s.startAt .g) hgated rfl
  rw [gate_of_activeDevice_none (s := s.startAt .g) hdevice] at hgate
  exact ⟨s.startAt .g, _, exec_gated_idle hgated hidle, hgate, ⟨rfl, rfl, rfl, rfl⟩,
    ⟨rfl, rfl, rfl, rfl, rfl, rfl, rfl, rfl⟩, rfl, rfl⟩

end Sys2Proof.Machine
end

section
/-! The bulk transfers and the typed reads past their gate (44_bulk_transfer.md R190 to R194): one equation per label,
what the memory primitives answer (60_exceptions.md R240), and the little-endian assembly. -/

namespace Sys2Proof.Machine

section
variable {s : State}

theorem exec_readBuffer_g (h : s.seq.phase = .g) (hdevice : s.ctrl.activeDevice ≠ none) :
    exec .opReadBuffer s = .next (s.goto .b1) := by
  simp [exec, execReadBuffer, h, gate_of_activeDevice hdevice]

theorem exec_readBuffer_b1 (h : s.seq.phase = .b1) :
    exec .opReadBuffer s = .next ((s.memRead s.io.a0 s.io.a1).goto .b2) := by
  simp [exec, execReadBuffer, h]

theorem exec_readBuffer_b2 (h : s.seq.phase = .b2) :
    exec .opReadBuffer s = .next
      (if s.seq.scratch.ok then s.endRead s.seq.scratch.bytes s.io.a1 else s.endFailed .transportFailure 0) := by
  simp [exec, execReadBuffer, h]

theorem exec_writeBuffer_g (h : s.seq.phase = .g) (hdevice : s.ctrl.activeDevice ≠ none) :
    exec .opWriteBuffer s = .next (s.goto .b1) := by
  simp [exec, execWriteBuffer, h, gate_of_activeDevice hdevice]

theorem exec_writeBuffer_b1 (h : s.seq.phase = .b1) : exec .opWriteBuffer s = .next (s.memWrite.goto .b2) := by
  simp [exec, execWriteBuffer, h]

theorem exec_writeBuffer_b2 (h : s.seq.phase = .b2) :
    exec .opWriteBuffer s = .next (if s.seq.scratch.ok then s.endOk s.io.a1 else s.endFailed .transportFailure 0) := by
  simp [exec, execWriteBuffer, h]

variable (n : Word) (value : List Byte → Word) (sentinel : Word)

theorem typedRead_idle (h : s.seq.phase = .idle) : typedRead n value sentinel s = .next (s.startAt .g) := by
  simp [typedRead, h]

theorem typedRead_g (h : s.seq.phase = .g) (hdevice : s.ctrl.activeDevice ≠ none) :
    typedRead n value sentinel s = .next (s.goto .b1) := by
  simp [typedRead, h, gate_of_activeDevice hdevice]

theorem typedRead_b1 (h : s.seq.phase = .b1) :
    typedRead n value sentinel s = .next ((s.memRead s.io.a0 n).goto .b2) := by
  simp [typedRead, h]

theorem typedRead_b2 (h : s.seq.phase = .b2) :
    typedRead n value sentinel s = .next
      (if s.seq.scratch.ok then s.endOk (value s.seq.scratch.bytes) else s.endFailed .transportFailure sentinel) := by
  simp [typedRead, h]

end

/-- R69: a memory read keeps the array. -/
theorem arrayKept_of_memRead {s t : State} {c : Config} {addr n : Word}
    (h : t.transport = s.transport.after c (.memRead addr n)) : s.ArrayKept t :=
  arrayKept_of_after (p := .memRead addr n) (fun _ => ⟨rfl, rfl⟩) h

/-- R240: what the transport answers to a memory read is what the reference chip answers, where it is attached. -/
theorem chipAnswersRead_ask (s : State) (addr n : Word) :
    s.ChipAnswersRead addr n (s.ask (.memRead addr n)).ok (s.ask (.memRead addr n)).bytes := by
  intro chip hchip hbus
  constructor
  · intro hinside
    rw [ask_memRead_reference hchip hbus hinside]
    exact ⟨rfl, fun i hi => readRange_getElem chip.mem addr.toNat n.toNat hi⟩
  · exact ask_memRead_past hchip hbus

/-- R191: the event of a memory write carries the boolean that B2 tests. -/
theorem memWrite_trace (s : State) :
    s.memWrite.trace = s.trace ++ [.writeMem s.io.a0 s.writeData s.memWrite.seq.scratch.ok] := rfl

/-- R69, R191: the boolean is the transport's, asked after the free bytes of a short `WBUF` are drawn. -/
theorem memWrite_ok (s : State) :
    s.memWrite.seq.scratch.ok =
      (State.ask (.memWrite s.io.a0 s.writeData) { s with draws := s.draws + s.io.a1.toNat }).ok := rfl

theorem memWrite_ok_scripted {s : State} {a : Answer} {rest : List Answer} (h : s.transport = .scripted (a :: rest)) :
    s.memWrite.seq.scratch.ok = a.ok := by
  rw [memWrite_ok, ask_scripted (by exact h)]

/-- R240, `MemWrite`: `true` exactly when the `a1` bytes lie inside the array. -/
theorem memWrite_ok_reference {s : State} {chip : Chip} (h : s.transport = .reference chip)
    (hbus : s.seq.busUp = true) :
    s.memWrite.seq.scratch.ok = decide (s.io.a0.toNat + s.io.a1.toNat ≤ chip.size) := by
  rw [memWrite_ok, ask_memWrite_reference (by exact h) (by exact hbus), writeData_length]

/-- R192: the one byte. -/
theorem assemble8_eq_ofNat (b0 : Byte) : assemble8 [b0] = BitVec.ofNat 32 b0.toNat :=
  zext_eq_ofNat b0

/-- R193: the second byte above the first. -/
theorem assemble16_eq_ofNat (b0 b1 : Byte) : assemble16 [b0, b1] = BitVec.ofNat 32 (b0.toNat + 256 * b1.toNat) := by
  apply BitVec.eq_of_toNat_eq
  rw [assemble16, BitVec.toNat_setWidth_of_le (by decide), toNat_append_eq_add, BitVec.toNat_ofNat]
  have h0 := b0.isLt
  have h1 := b1.isLt
  simp only [List.getD_cons_zero, List.getD_cons_succ]
  omega

/-- R194: each byte above those before it. -/
theorem assemble32_eq_ofNat (b0 b1 b2 b3 : Byte) :
    assemble32 [b0, b1, b2, b3] =
      BitVec.ofNat 32 (b0.toNat + 256 * b1.toNat + 65536 * b2.toNat + 16777216 * b3.toNat) := by
  apply BitVec.eq_of_toNat_eq
  rw [assemble32, toNat_append_eq_add, toNat_append_eq_add, toNat_append_eq_add, BitVec.toNat_ofNat]
  have h0 := b0.isLt
  have h1 := b1.isLt
  have h2 := b2.isLt
  have h3 := b3.isLt
  simp only [List.getD_cons_zero, List.getD_cons_succ]
  omega

theorem sentinel8_eq_ofNat (c : Config) : sentinel8 c = BitVec.ofNat 32 c.errSentinel8.toNat :=
  zext_eq_ofNat c.errSentinel8

theorem sentinel16_eq_ofNat (c : Config) : sentinel16 c = BitVec.ofNat 32 c.errSentinel16.toNat :=
  (BitVec.ofNat_toNat 32 c.errSentinel16).symm

end Sys2Proof.Machine
end

section
/-! The bulk transfers and the typed reads, the obligations: the one primitive call is made at B1, and the boolean it
answers decides at B2 between the two endings. -/

namespace Sys2Proof.Machine

/-- R190: both endings of `READ_BUFFER` leave the rest of the engine and the environment alone; success delivers
`bytes`. -/
theorem endedWith_of_read {s t : State} {ok : Bool} {bytes : List Byte} {v : Word}
    (ht : t = if ok then s.endRead bytes v else s.endFailed .transportFailure 0) :
    s.Kept t ∧ t.trace = s.trace ∧ t.transport = s.transport ∧
      (ok = true → t.EndedWith 0 v ∧ t.io.rbuf = bytes) ∧ (ok = false → t.EndedWith 2 0) := by
  subst ht
  cases ok with
  | true => exact ⟨⟨rfl, rfl, rfl, rfl, rfl, rfl, rfl, rfl⟩, rfl, rfl, fun _ => ⟨⟨rfl, rfl, rfl, rfl⟩, rfl⟩, nofun⟩
  | false => exact ⟨⟨rfl, rfl, rfl, rfl, rfl, rfl, rfl, rfl⟩, rfl, rfl, nofun, fun _ => ⟨rfl, rfl, rfl, rfl⟩⟩

/-- Settles O49: the boolean and the bytes that the ending at B2 uses are those `MemRead` has answered at B1. -/
theorem readBufferCompletes : Obligations.ReadBufferCompletes := by
  unfold Obligations.ReadBufferCompletes
  intro s hidle
  refine ⟨turnedAway_of_gated rfl hidle, fun hdevice => ?_⟩
  let s1 := s.startAt .g
  let s2 := s1.goto .b1
  let s3 := (s2.memRead s.io.a0 s.io.a1).goto .b2
  obtain ⟨hkept, htrace, htransport, hsucceeds, hfails⟩ :=
    endedWith_of_read (s := s3) (ok := s3.seq.scratch.ok) (bytes := s3.seq.scratch.bytes) (v := s.io.a1) rfl
  exact ⟨s1, s2, s3, _, s3.seq.scratch.ok, s3.seq.scratch.bytes, exec_gated_idle rfl hidle,
    exec_readBuffer_g rfl hdevice, exec_readBuffer_b1 rfl, exec_readBuffer_b2 rfl, hkept,
    arrayKept_of_memRead (s := s) htransport, rfl, chipAnswersRead_ask s s.io.a0 s.io.a1,
    ask_bytes_length (.memRead s.io.a0 s.io.a1) s2, htrace, hsucceeds, hfails⟩

/-- Settles O50: the bytes written at B1 are `WBUF` because the host keeps R23. -/
theorem writeBufferCompletes : Obligations.WriteBufferCompletes := by
  unfold Obligations.WriteBufferCompletes
  intro s hidle
  refine ⟨turnedAway_of_gated rfl hidle, fun hdevice hlength => ?_⟩
  let s1 := s.startAt .g
  let s2 := s1.goto .b1
  let s3 := s2.memWrite.goto .b2
  obtain ⟨hkept, htrace, htransport, hsucceeds, hfails⟩ :=
    endedWith_of_boolean (s := s3) (ok := s3.seq.scratch.ok) (v := s.io.a1) (w := 0) rfl
  have hdata : s2.writeData = s.io.wbuf := writeData_of_length hlength
  refine ⟨s1, s2, s3, _, s3.seq.scratch.ok, exec_gated_idle rfl hidle, exec_writeBuffer_g rfl hdevice,
    exec_writeBuffer_b1 rfl, exec_writeBuffer_b2 rfl, hkept, ?_, ?_, ?_, hsucceeds, hfails⟩
  · intro a rest hscript
    have hused : s3.transport = .scripted rest := by
      rw [State.goto_transport, State.memWrite_transport, show s2.transport = _ from hscript, after_scripted rfl]
    exact ⟨memWrite_ok_scripted (s := s2) hscript, htransport.trans hused⟩
  · exact fun chip hchip hbus => memWrite_ok_reference (s := s2) hchip hbus
  · rw [← hdata]
    exact htrace.trans (memWrite_trace s2)

/-- R192 to R194: what an operation does that is `typedRead` of `n` bytes: one event, the transport's boolean and bytes,
which decide the result; nothing else of the engine or the array changed. -/
theorem typedRead_run {i : Instr} {n : Word} {value : List Byte → Word} {sentinel : Config → Word}
    (harm : ∀ u, exec i u = typedRead n value (sentinel u.config) u) {s : State} (hidle : s.seq.phase = .idle)
    (hdevice : s.ctrl.activeDevice ≠ none) :
    ∃ s1 s2 s3 t ok bytes, bytes.length = n.toNat ∧ exec i s = .next s1 ∧ exec i s1 = .next s2 ∧ exec i s2 = .next s3 ∧
      exec i s3 = .next t ∧ s.Kept t ∧ s.ArrayKept t ∧ s2.ask (.memRead s.io.a0 n) = ⟨ok, bytes⟩ ∧
      s.ChipAnswersRead s.io.a0 n ok bytes ∧ t.trace = s.trace ++ [.readMem s.io.a0 n ok bytes] ∧
      (ok = true → t.EndedWith 0 (value bytes)) ∧ (ok = false → t.EndedWith 2 (sentinel s.config)) := by
  let s1 := s.startAt .g
  let s2 := s1.goto .b1
  let s3 := (s2.memRead s.io.a0 n).goto .b2
  obtain ⟨hkept, htrace, htransport, hsucceeds, hfails⟩ :=
    endedWith_of_boolean (s := s3) (ok := s3.seq.scratch.ok) (v := value s3.seq.scratch.bytes)
      (w := sentinel s.config) rfl
  refine ⟨s1, s2, s3, _, s3.seq.scratch.ok, s3.seq.scratch.bytes, ask_bytes_length (.memRead s.io.a0 n) s2,
    ?_, ?_, ?_, ?_, hkept, arrayKept_of_memRead (s := s) htransport, rfl, chipAnswersRead_ask s s.io.a0 n, htrace,
    hsucceeds, hfails⟩
  · exact (harm s).trans (typedRead_idle _ _ _ hidle)
  · exact (harm s1).trans (typedRead_g _ _ _ rfl hdevice)
  · exact (harm s2).trans (typedRead_b1 _ _ _ rfl)
  · exact (harm s3).trans (typedRead_b2 _ _ _ rfl)

/-- Settles O51: the three operations are `typedRead_run` with their widths, assemblies and sentinels. -/
theorem typedReadsComplete : Obligations.TypedReadsComplete := by
  unfold Obligations.TypedReadsComplete
  intro s hidle
  refine ⟨fun hdevice => ⟨turnedAway_of_gated rfl hidle hdevice, turnedAway_of_gated rfl hidle hdevice,
    turnedAway_of_gated rfl hidle hdevice⟩, fun hdevice => ⟨?read8, ?read16, ?read32⟩⟩
  case read8 =>
    obtain ⟨s1, s2, s3, t, ok, bytes, hlength, hrun⟩ :=
      typedRead_run (i := .opRead8) (value := assemble8) (sentinel := sentinel8) (fun _ => rfl) hidle hdevice
    obtain ⟨b0, rfl⟩ := List.length_eq_one_iff.1 hlength
    rw [assemble8_eq_ofNat, sentinel8_eq_ofNat] at hrun
    exact ⟨s1, s2, s3, t, ok, b0, hrun⟩
  case read16 =>
    obtain ⟨s1, s2, s3, t, ok, bytes, hlength, hrun⟩ :=
      typedRead_run (i := .opRead16) (value := assemble16) (sentinel := sentinel16) (fun _ => rfl) hidle hdevice
    obtain ⟨b0, b1, rfl⟩ := List.length_eq_two.1 hlength
    rw [assemble16_eq_ofNat, sentinel16_eq_ofNat] at hrun
    exact ⟨s1, s2, s3, t, ok, b0, b1, hrun⟩
  case read32 =>
    obtain ⟨s1, s2, s3, t, ok, bytes, hlength, hrun⟩ :=
      typedRead_run (i := .opRead32) (value := assemble32) (sentinel := sentinel32) (fun _ => rfl) hidle hdevice
    obtain ⟨b0, b1, b2, b3, rfl⟩ := List.length_eq_four.1 hlength
    rw [assemble32_eq_ofNat] at hrun
    exact ⟨s1, s2, s3, t, ok, b0, b1, b2, b3, hrun⟩

end Sys2Proof.Machine
end

section
/-! `ERASE_SECTOR` past its gate (45_erase.md R201): one equation per label, the wrapped address, and the boolean that
`ERASE_SECTOR_RESULT` lets the operation report. -/

namespace Sys2Proof.Machine

variable {s : State}

theorem exec_eraseSector_g (h : s.seq.phase = .g) (hdevice : s.ctrl.activeDevice ≠ none) :
    exec .opEraseSector s = .next (s.goto .e1) := by
  simp [exec, execEraseSector, h, gate_of_activeDevice hdevice]

theorem exec_eraseSector_e1 (h : s.seq.phase = .e1) :
    exec .opEraseSector s = .next
      ((s.withScratch { s.seq.scratch with addr := sectorAddress s.io.a0 s.config.sectorSize }).goto .e2) := by
  simp [exec, execEraseSector, h]

theorem exec_eraseSector_e2 (h : s.seq.phase = .e2) :
    exec .opEraseSector s = .next ((s.eraseSector s.seq.scratch.addr).goto .e3) := by
  simp [exec, execEraseSector, h]

theorem exec_eraseSector_e3 (h : s.seq.phase = .e3) :
    exec .opEraseSector s = .next (if s.eraseReported then s.endOk 1 else s.endFailed .transportFailure 0) := by
  simp [exec, execEraseSector, h]

/-- R201: the byte address is the product, wrapped to 32 bits. -/
theorem sectorAddress_eq_ofNat (sectorNumber sectorSize : Word) :
    sectorAddress sectorNumber sectorSize =
      BitVec.ofNat 32 (sectorNumber.toNat * sectorSize.toNat % 2 ^ 32) := by
  apply BitVec.eq_of_toNat_eq
  rw [sectorAddress, BitVec.toNat_mul, BitVec.toNat_ofNat, Nat.mod_mod]

/-- R201: mode `always_ok` reports success whatever the transport answered. -/
theorem eraseReported_alwaysOk (hmode : s.config.eraseSectorResult = .alwaysOk) : s.eraseReported = true := by
  simp [State.eraseReported, hmode]

/-- R201: mode `propagate` reports the transport's boolean. -/
theorem eraseReported_propagate (hmode : s.config.eraseSectorResult = .propagate) :
    s.eraseReported = s.seq.scratch.ok := by
  simp [State.eraseReported, hmode]

/-- Settles O53: E1 computes the wrapped address, E2 makes the one call, and at E3 the mode decides whether its boolean
counts. -/
theorem eraseSectorCompletes : Obligations.EraseSectorCompletes := by
  unfold Obligations.EraseSectorCompletes
  intro s hidle
  refine ⟨turnedAway_of_gated rfl hidle, fun hdevice => ?_⟩
  rw [← sectorAddress_eq_ofNat]
  let s1 := s.startAt .g
  let s2 := s1.goto .e1
  let s3 := (s2.withScratch { s2.seq.scratch with addr := sectorAddress s.io.a0 s.config.sectorSize }).goto .e2
  let s4 := (s3.eraseSector s3.seq.scratch.addr).goto .e3
  obtain ⟨hkept, htrace, -, hsucceeds, hfails⟩ :=
    endedWith_of_boolean (s := s4) (ok := s4.eraseReported) (v := 1) (w := 0) rfl
  refine ⟨s1, s2, s3, s4, _, s4.seq.scratch.ok, exec_gated_idle rfl hidle, exec_eraseSector_g rfl hdevice,
    exec_eraseSector_e1 rfl, exec_eraseSector_e2 rfl, exec_eraseSector_e3 rfl, hkept, rfl, htrace, ?_, ?_, ?_⟩
  · exact fun hmode => hsucceeds (eraseReported_alwaysOk (s := s4) hmode)
  · exact fun hmode hok => hsucceeds ((eraseReported_propagate (s := s4) hmode).trans hok)
  · exact fun hmode hok => hfails ((eraseReported_propagate (s := s4) hmode).trans hok)

end Sys2Proof.Machine
end

section
/-! The lifecycle gate of INITIALIZE (60_exceptions.md R232), the other way round: it is open while no device is
active (`exec_initialize_g`) and turns the request away once one is. -/

namespace Sys2Proof.Machine

variable {s : State}

/-- R232: the gate is closed once a device is active. -/
theorem exec_initialize_g_of_active (h : s.seq.phase = .g) (hdevice : s.ctrl.activeDevice ≠ none) :
    exec .opInitialize s = .next (s.endFailed .stateError 0) := by
  rw [← Option.isSome_iff_ne_none] at hdevice
  simp [exec, execInitialize, h, State.initialized, hdevice]

/-- R232: with an active device INITIALIZE is turned away. -/
theorem turnedAway_of_initialize_active (hidle : s.seq.phase = .idle) (hdevice : s.ctrl.activeDevice ≠ none) :
    s.TurnedAway .opInitialize :=
  ⟨s.startAt .g, _, exec_initialize_idle hidle, exec_initialize_g_of_active rfl hdevice, ⟨rfl, rfl, rfl, rfl⟩,
    ⟨rfl, rfl, rfl, rfl, rfl, rfl, rfl, rfl⟩, rfl, rfl⟩

/-- Settles O26: both halves take the step to the gate `G`; there `active_device` decides. -/
theorem secondInitializeRefused : Obligations.SecondInitializeRefused := by
  unfold Obligations.SecondInitializeRefused
  intro s hidle
  refine ⟨turnedAway_of_initialize_active hidle, fun hdevice => ?_⟩
  exact ⟨s.startAt .g, exec_initialize_idle hidle, exec_initialize_g rfl hdevice⟩

end Sys2Proof.Machine
end

section
/-! A reset at any time (70_reset_and_hazards.md R250 to R252). -/

namespace Sys2Proof.Machine

/-- R250: the fetch looks at the host's move before it looks at `busy`, so a reset is taken at this very step. -/
theorem step_of_reset {s : State} {rest : List HostMove} (hinputs : s.inputs = .reset :: rest) :
    step s = .next ({ s with inputs := rest } : State).engineReset := by
  simp [step, fetch, hinputs]

/-- Settles O9: the step is `engineReset`, which puts each of the three register files at its reset record and keeps
every other field the statement names. -/
theorem resetTakesEffectAtOnce : Obligations.ResetTakesEffectAtOnce := by
  unfold Obligations.ResetTakesEffectAtOnce
  intro s rest hinputs
  refine ⟨_, step_of_reset hinputs, ?_⟩
  simp only [State.engineReset_ctrl, State.engineReset_io, State.engineReset_seq, State.engineReset_trace,
    State.engineReset_transport, State.engineReset_config, State.engineReset_inputs]
  simp [Controller.atReset, HostInterface.atReset, Sequencer.atReset]

end Sys2Proof.Machine
end

section
/-! The decoder and the encoder (30_encoding.md sections 1, 2 and 4): each undoes the other. -/

namespace Sys2Proof.Machine

/-- The round trip of every instruction, gathered from the instruction's own. -/
theorem roundTrip (i : Instr) : Laws.RoundTrip.Statement i := by
  cases i with
  | opInitialize => exact Laws.RoundTrip.opInitialize
  | opReadBuffer => exact Laws.RoundTrip.opReadBuffer
  | opWriteBuffer => exact Laws.RoundTrip.opWriteBuffer
  | opRead8 => exact Laws.RoundTrip.opRead8
  | opRead16 => exact Laws.RoundTrip.opRead16
  | opRead32 => exact Laws.RoundTrip.opRead32
  | opChipErase => exact Laws.RoundTrip.opChipErase
  | opEraseSector => exact Laws.RoundTrip.opEraseSector
  | opEraseBlock => exact Laws.RoundTrip.opEraseBlock
  | opReadMfrDevId => exact Laws.RoundTrip.opReadMfrDevId
  | opReadJedecId => exact Laws.RoundTrip.opReadJedecId
  | opGetTotalSize => exact Laws.RoundTrip.opGetTotalSize
  | opGetPageSize => exact Laws.RoundTrip.opGetPageSize
  | opGetPageCount => exact Laws.RoundTrip.opGetPageCount
  | opReadStatus1 => exact Laws.RoundTrip.opReadStatus1
  | opReadStatus2 => exact Laws.RoundTrip.opReadStatus2
  | opWriteEnable => exact Laws.RoundTrip.opWriteEnable
  | cmdRdid => exact Laws.RoundTrip.cmdRdid
  | cmdRdsr1 => exact Laws.RoundTrip.cmdRdsr1
  | cmdRdsr2 => exact Laws.RoundTrip.cmdRdsr2
  | cmdWrsr1 payload => exact Laws.RoundTrip.cmdWrsr1 payload
  | cmdWrsr2 payload => exact Laws.RoundTrip.cmdWrsr2 payload
  | cmdWren => exact Laws.RoundTrip.cmdWren
  | cmdWrdi => exact Laws.RoundTrip.cmdWrdi
  | cmdRsten => exact Laws.RoundTrip.cmdRsten
  | cmdRst => exact Laws.RoundTrip.cmdRst
  | cmdCe => exact Laws.RoundTrip.cmdCe

/-- Settles O2, by the round trip of each instruction. -/
theorem decodeOfEncode : Obligations.DecodeOfEncode := by
  unfold Obligations.DecodeOfEncode
  exact fun c i hdistinct hwf => roundTrip i c hdistinct hwf

/-- R101: an operation's code is its whole encoding. -/
theorem encode_of_decodeRequest (c : Config) {b : Byte} {i : Instr} (h : decodeRequest b = .ok i) :
    encode c i = [b] ∧ i.space = .host ∧ i.wf = true := by
  unfold decodeRequest at h
  split at h <;> cases h <;> exact ⟨rfl, rfl, rfl⟩

/-- A command without payload decodes only when nothing follows its byte. -/
theorem eq_of_bare {cmd : Byte} {i j : Instr} {payload : List Byte} (h : bare cmd i payload = .ok j) :
    payload = [] ∧ j = i := by
  cases payload with
  | nil => cases h; exact ⟨rfl, rfl⟩
  | cons b rest => cases h

/-- R110, R121: a payload that decodes has a length its command takes. -/
theorem encode_of_decodePayload {c : Config} {cmd : Byte} {k : BusCommand} {payload : List Byte} {i : Instr}
    (hcmd : c.byteOf k = cmd) (h : decodePayload cmd k payload = .ok i) :
    encode c i = cmd :: payload ∧ i.space = .bus ∧ i.wf = true := by
  subst hcmd
  cases k with
  | wrsr1 =>
    match payload, h with
    | [b0], h => cases h; exact ⟨rfl, rfl, rfl⟩
    | [b0, b1], h => cases h; exact ⟨rfl, rfl, rfl⟩
  | wrsr2 =>
    match payload, h with
    | [b0], h => cases h; exact ⟨rfl, rfl, rfl⟩
  | _ => obtain ⟨rfl, rfl⟩ := eq_of_bare h; exact ⟨rfl, rfl, rfl⟩

/-- Settles O3: a host request is one code; a bus frame is a command's byte and a payload of that command. -/
theorem encodeOfDecode : Obligations.EncodeOfDecode := by
  unfold Obligations.EncodeOfDecode
  intro c sp bytes i h
  match sp, bytes with
  | .host, [] => cases h
  | .host, [code] => exact encode_of_decodeRequest c h
  | .host, _ :: _ :: _ => cases h
  | .bus, [] => cases h
  | .bus, cmd :: payload =>
    cases hk : c.commandOf cmd with
    | none => simp [decode, decodeBus, hk] at h
    | some k =>
      exact encode_of_decodePayload (byteOf_of_commandOf hk) (by simpa [decode, decodeBus, hk] using h)

/-- Settles O1: each word is read by evaluating the decoder. -/
theorem tableWordsDecode : Obligations.TableWordsDecode := by
  unfold Obligations.TableWordsDecode
  exact ⟨rfl, rfl, rfl, rfl, rfl, rfl, rfl, rfl, rfl, rfl, rfl, rfl, rfl, rfl, rfl⟩

end Sys2Proof.Machine
end

section
/-! What one step of the machine takes up (10_state.md R21, R31; 20_memory.md R81; log 4). -/

namespace Sys2Proof.Machine

variable {s t : State} {i : Instr}

/-- R31: a busy engine goes on with the operation whose code `OP` holds. -/
theorem engineTurn_of_busy (hbusy : s.io.busy = true) (hcode : decodeRequest s.io.op = .ok i) :
    engineTurn s = .run i s := by
  simp [engineTurn, hbusy, hcode]

/-- R81(d): an idle engine has nothing to go on with. -/
theorem engineTurn_of_idle (hbusy : s.io.busy = false) : engineTurn s = .settled s := by
  simp [engineTurn, hbusy]

/-- The operation in flight, from the code in `OP`. -/
theorem operation_eq_some (hcode : decodeRequest s.io.op = .ok i) : s.operation = some i := by
  simp [State.operation, hcode]

/-- Settles O4: `fetch` looks at the host's next move, then at `busy`, then at the code. -/
theorem stepRunsDecodedInstruction : Obligations.StepRunsDecodedInstruction := by
  unfold Obligations.StepRunsDecodedInstruction
  refine ⟨?silent, ?waits, ?standing, ?accepted⟩
  case silent =>
    intro s i hinputs hbusy hcode
    simp [step, fetch, hinputs, engineTurn_of_busy hbusy hcode]
  case waits =>
    intro s i rest hinputs hbusy hcode
    simp [step, fetch, hinputs, engineTurn_of_busy (s := { s with inputs := rest }) hbusy hcode]
  case standing =>
    intro s i r rest hinputs hbusy hcode
    simp [step, fetch, hinputs, hbusy, engineTurn_of_busy hbusy hcode]
  case accepted =>
    intro s i r rest hinputs hbusy hcode
    simp [step, fetch, hinputs, hbusy, acceptRequest, hcode, State.hostWrite]

/-- R21: from `IDLE` a host operation does nothing but stand at its first label. -/
theorem exec_idle (hhost : i.space = .host) (hidle : s.seq.phase = .idle) :
    ∃ p, (labelsOf i).head? = some p ∧ exec i s = .next (s.startAt p) := by
  cases i with
  | opInitialize => exact ⟨.g, rfl, exec_initialize_idle hidle⟩
  | opReadMfrDevId => exact ⟨.m1, rfl, exec_readMfrDevId_idle hidle⟩
  | opReadJedecId => exact ⟨.j1, rfl, exec_readJedecId_idle hidle⟩
  | opGetTotalSize | opGetPageSize | opGetPageCount => exact ⟨.acc, rfl, accessor_idle hidle _⟩
  | opReadStatus1 | opReadStatus2 => exact ⟨.s1, rfl, statusRead_idle hidle _⟩
  | opWriteEnable => exact ⟨.w1, rfl, exec_writeEnable_idle hidle⟩
  | opReadBuffer | opWriteBuffer | opRead8 | opRead16 | opRead32 | opChipErase | opEraseSector | opEraseBlock =>
    exact ⟨.g, rfl, exec_gated_idle rfl hidle⟩
  | _ => cases hhost

/-- Settles O5: the step runs the operation from `IDLE`, the host's registers written. -/
theorem requestStartsTheOperation : Obligations.RequestStartsTheOperation := by
  unfold Obligations.RequestStartsTheOperation
  intro s i r rest hinputs hbusy hidle hcode
  obtain ⟨p, hp, hexec⟩ :=
    exec_idle (s := ({ s with inputs := rest } : State).hostWrite r) (decodeRequest_host hcode) hidle
  refine ⟨p, hp, ?_⟩
  simpa [step, fetch, hinputs, hbusy, acceptRequest, hcode, State.hostWrite, State.startAt] using hexec

/-- Settles O7: the engine's own turn is the whole step, and idle it changes nothing. -/
theorem idleEngineIssuesNothing : Obligations.IdleEngineIssuesNothing := by
  unfold Obligations.IdleEngineIssuesNothing
  intro s hbusy
  constructor
  · intro hinputs
    simp [step, fetch, hinputs, engineTurn_of_idle hbusy]
  · intro rest hinputs
    simp [step, fetch, hinputs, engineTurn_of_idle (s := { s with inputs := rest }) hbusy]

/-- Settles O8: of all steps only that of the operation in flight meets a busy engine with a request standing, and no
instruction takes a host move or writes what the host writes. -/
theorem requestWaitsWhileBusy : Obligations.RequestWaitsWhileBusy := by
  unfold Obligations.RequestWaitsWhileBusy
  intro s t r rest hinputs hbusy hstep
  cases step_kind hstep with
  | reset _ h => simp [hinputs] at h
  | silent _ h => simp [hbusy] at h
  | illegal _ _ _ h => simp [hbusy] at h
  | starts _ _ _ _ h => simp [hbusy] at h
  | runs i moves _ _ hmoves _ hexec =>
    have hkeep := exec_effect hexec
    have hsame : moves = s.inputs := hmoves.resolve_right (by simp [hinputs])
    exact ⟨hkeep.inputs.trans hsame, hkeep.op, hkeep.a0, hkeep.a1, hkeep.wbuf⟩

end Sys2Proof.Machine
end

section
/-! The sequencer (10_state.md R21, R30): where the machine can stand, and that it never stops there. -/

namespace Sys2Proof.Machine

variable {s t : State} {i : Instr}

/-- `IDLE` is no operation's label. -/
theorem ne_idle_of_mem_labelsOf {p : Phase} (h : p ∈ labelsOf i) : p ≠ .idle := by
  rintro rfl
  cases i <;> simp [labelsOf] at h

/-- The labels of `ERASE_BLOCK`'s mode are among its labels; the other operations have one set. -/
theorem mem_labelsOf_of_mem_labelsIn {c : Config} {p : Phase} (h : p ∈ labelsIn c i) : p ∈ labelsOf i := by
  unfold labelsIn at h
  split at h
  next hi =>
    subst hi
    cases hmode : c.eraseBlockMode <;> simp [hmode] at h <;> rcases h with rfl | h <;> simp_all [labelsOf]
  next => exact h

theorem consistent_of_idle (hbusy : s.io.busy = false) (hphase : s.seq.phase = .idle) : s.Consistent := by
  simp [State.Consistent, hbusy, hphase]

theorem consistent_of_busy (hbusy : s.io.busy = true) (hi : s.operation = some i)
    (hlabel : s.seq.phase ∈ labelsIn s.config i) : s.Consistent := by
  simpa [State.Consistent, hbusy] using ⟨i, hi, hlabel⟩

theorem State.Consistent.phase_eq_idle (h : s.Consistent) (hbusy : s.io.busy = false) : s.seq.phase = .idle := by
  simpa [State.Consistent, hbusy] using h

theorem State.Consistent.label_mem (h : s.Consistent) (hbusy : s.io.busy = true) (hi : s.operation = some i) :
    s.seq.phase ∈ labelsIn s.config i := by
  simpa [State.Consistent, hbusy, hi] using h

/-- Where a consistent engine stands when `OP` holds the code of `i`. -/
theorem State.Consistent.phase_cases (h : s.Consistent) (hi : s.operation = some i) :
    s.seq.phase = .idle ∨ s.io.busy = true ∧ s.seq.phase ∈ labelsIn s.config i := by
  cases hbusy : s.io.busy with
  | false => exact .inl (h.phase_eq_idle hbusy)
  | true => exact .inr ⟨rfl, h.label_mem hbusy hi⟩

/-- The operation in flight hangs on the code in `OP` alone. -/
theorem operation_congr (h : t.io.op = s.io.op) : t.operation = s.operation := by
  simp [State.operation, h]

/-- A step of the operation in flight, or of the operation a request has just brought, leaves the sequencer
consistent. -/
theorem consistent_of_exec (hi : s.operation = some i)
    (hphase : s.seq.phase = .idle ∨ s.io.busy = true ∧ s.seq.phase ∈ labelsIn s.config i)
    (h : exec i s = .next t) : t.Consistent := by
  have hkeep := exec_effect h
  have hop : t.operation = some i := (operation_congr hkeep.op).trans hi
  obtain ⟨hidle, hbusy⟩ | ⟨hlabel, -, hio⟩ := exec_phase (hphase.imp_right And.right) (operation_host hi) h
  · exact consistent_of_idle hbusy hidle
  · rw [← hkeep.config] at hlabel
    refine consistent_of_busy ?_ hop hlabel
    obtain ⟨-, hio⟩ | ⟨hne, hio⟩ := hio
    · rw [hio]
    · rw [hio]
      exact (hphase.resolve_left hne).1

/-- Settles O11: a reset and a reserved code leave the engine idle; an instruction is one in flight or one that starts
from `IDLE`. -/
theorem sequencerStaysConsistent : Obligations.SequencerStaysConsistent := by
  unfold Obligations.SequencerStaysConsistent
  intro s t hs hstep
  cases step_kind hstep with
  | reset rest _ ht => subst ht; exact consistent_of_idle rfl rfl
  | silent moves _ ht => subst ht; exact hs
  | illegal r rest _ _ e _ ht => subst ht; exact consistent_of_idle rfl rfl
  | runs i moves _ _ _ hi hexec =>
    exact consistent_of_exec (s := { s with inputs := moves }) hi (hs.phase_cases hi) hexec
  | starts i r rest _ hbusy hcode hexec =>
    exact consistent_of_exec (s := State.hostWrite r { s with inputs := rest }) (operation_eq_some hcode)
      (.inl (hs.phase_eq_idle hbusy)) hexec

/-- R184: without the harness's bound a busy-poll always goes on. -/
theorem exists_poll_next (hlimit : s.config.pollLimit = none) (c : BusCommand) (mask : Byte) (again after : Phase) :
    ∃ t, s.poll c mask again after = .next t := by
  have hgoes : s.pollLimitReached = false := pollLimitReached_eq_false (by simp [hlimit])
  unfold State.poll
  rw [hgoes, if_neg Bool.false_ne_true]
  dsimp only
  split <;> exact ⟨_, rfl⟩

/-- R210: from each of its labels an operation has a next state. -/
theorem exists_exec_next (hhost : i.space = .host) (hlimit : s.config.pollLimit = none)
    (hlabel : s.seq.phase ∈ labelsOf i) : ∃ t, exec i s = .next t := by
  cases i with
  | opInitialize =>
    simp only [labelsOf, List.mem_cons, List.not_mem_nil, or_false] at hlabel
    rcases hlabel with h | h | h | h | h | h | h | h | h | h | h | h | h | h | h | h | h | h | h | h | h <;>
      simp [exec, execInitialize, h, exists_poll_next hlimit]
  | opReadBuffer | opWriteBuffer | opRead8 | opRead16 | opRead32 =>
    simp only [labelsOf, List.mem_cons, List.not_mem_nil, or_false] at hlabel
    rcases hlabel with h | h | h <;>
      simp [exec, execReadBuffer, execWriteBuffer, execRead8, execRead16, execRead32, typedRead, h]
  | opChipErase | opEraseBlock =>
    simp only [labelsOf, List.mem_cons, List.not_mem_nil, or_false] at hlabel
    rcases hlabel with h | h | h | h | h <;>
      simp [exec, execChipErase, execEraseBlock, h, exists_poll_next hlimit]
  | opEraseSector =>
    simp only [labelsOf, List.mem_cons, List.not_mem_nil, or_false] at hlabel
    rcases hlabel with h | h | h | h <;> simp [exec, execEraseSector, h]
  | opReadMfrDevId | opReadJedecId | opReadStatus1 | opReadStatus2 | opWriteEnable =>
    simp only [labelsOf, List.mem_cons, List.not_mem_nil, or_false] at hlabel
    rcases hlabel with h | h <;>
      simp [exec, execReadMfrDevId, execReadJedecId, execReadStatus1, execReadStatus2, statusRead, execWriteEnable, h]
  | opGetTotalSize | opGetPageSize | opGetPageCount =>
    exact ⟨_, accessor_acc (List.mem_singleton.1 hlabel) _⟩
  | _ => cases hhost

theorem step_of_fetch_run {u : State} (h : fetch s = .run i u) : step s = exec i u := by
  simp [step, h]

theorem step_of_fetch_settled (h : fetch s = .settled t) : step s = .next t := by
  simp [step, h]

/-- The engine's own turn, taken from a consistent state, has a next state. -/
theorem exists_step_next_of_engineTurn {u : State} (hu : u.Consistent) (hlimit : u.config.pollLimit = none)
    (hfetch : fetch s = engineTurn u) : ∃ t, step s = .next t := by
  obtain ⟨hbusy, i, hi, hturn⟩ | ⟨hbusy, hnone, -⟩ | ⟨-, hturn⟩ := engineTurn_cases u
  · rw [step_of_fetch_run (hfetch.trans hturn)]
    exact exists_exec_next (operation_host hi) hlimit (mem_labelsOf_of_mem_labelsIn (hu.label_mem hbusy hi))
  · simp [State.Consistent, hbusy, hnone] at hu
  · exact ⟨u, step_of_fetch_settled (hfetch.trans hturn)⟩

/-- Settles O13: a reset settles the step, and so does a reserved code; a request starts an operation from `IDLE`; else
it is the engine's own turn. -/
theorem consistentEngineNeverStops : Obligations.ConsistentEngineNeverStops := by
  unfold Obligations.ConsistentEngineNeverStops
  intro s hs hlimit
  cases hinputs : s.inputs with
  | nil => exact exists_step_next_of_engineTurn hs hlimit (by simp [fetch, hinputs])
  | cons move rest =>
    cases move with
    | reset => exact ⟨_, step_of_reset hinputs⟩
    | wait => exact exists_step_next_of_engineTurn (u := { s with inputs := rest }) hs hlimit (by simp [fetch, hinputs])
    | request r =>
      cases hbusy : s.io.busy with
      | true => exact exists_step_next_of_engineTurn hs hlimit (by simp [fetch, hinputs, hbusy])
      | false =>
        have hfetch : fetch s = acceptRequest r { s with inputs := rest } := by simp [fetch, hinputs, hbusy]
        obtain ⟨i, hcode, haccept⟩ | ⟨e, -, haccept⟩ := acceptRequest_cases r { s with inputs := rest }
        · obtain ⟨p, -, hexec⟩ := exec_idle (s := State.hostWrite r { s with inputs := rest })
            (decodeRequest_host hcode) (hs.phase_eq_idle hbusy)
          exact ⟨_, (step_of_fetch_run (hfetch.trans haccept)).trans hexec⟩
        · exact ⟨_, step_of_fetch_settled (hfetch.trans haccept)⟩

/-- Settles O27: the operation's meaning has an arm for `IDLE` and one for each of its labels, and the last arm for any
other. -/
theorem requestWhileBusyRefused : Obligations.RequestWhileBusyRefused := by
  unfold Obligations.RequestWhileBusyRefused
  intro i s hhost hidle hlabel
  cases i with
  | opInitialize => simp only [exec, execInitialize]; split <;> simp_all [labelsOf]
  | opReadBuffer => simp only [exec, execReadBuffer]; split <;> simp_all [labelsOf]
  | opWriteBuffer => simp only [exec, execWriteBuffer]; split <;> simp_all [labelsOf]
  | opRead8 | opRead16 | opRead32 =>
    simp only [exec, execRead8, execRead16, execRead32, typedRead]; split <;> simp_all [labelsOf]
  | opChipErase => simp only [exec, execChipErase]; split <;> simp_all [labelsOf]
  | opEraseSector => simp only [exec, execEraseSector]; split <;> simp_all [labelsOf]
  | opEraseBlock => simp only [exec, execEraseBlock]; split <;> simp_all [labelsOf]
  | opReadMfrDevId => simp only [exec, execReadMfrDevId]; split <;> simp_all [labelsOf]
  | opReadJedecId => simp only [exec, execReadJedecId]; split <;> simp_all [labelsOf]
  | opGetTotalSize | opGetPageSize | opGetPageCount =>
    simp only [exec, execGetTotalSize, execGetPageSize, execGetPageCount, accessor]; split <;> simp_all [labelsOf]
  | opReadStatus1 | opReadStatus2 =>
    simp only [exec, execReadStatus1, execReadStatus2, statusRead]; split <;> simp_all [labelsOf]
  | opWriteEnable => simp only [exec, execWriteEnable]; split <;> simp_all [labelsOf]
  | _ => cases hhost

end Sys2Proof.Machine
end

section
/-! What a step can do outside the sequencer: the trace, the parameters, the controller and the array. -/

namespace Sys2Proof.Machine

variable {s t : State} {i : Instr}

/-- R31, R70: an instruction records at most one event. -/
theorem exec_trace (h : exec i s = .next t) : t.trace = s.trace ∨ ∃ e, t.trace = s.trace ++ [e] := by
  obtain ⟨-, htrace | ⟨-, -, htrace⟩⟩ | ⟨p, a, -, htrace⟩ := (exec_effect h).environment
  · exact .inl htrace
  · exact .inr ⟨_, htrace⟩
  · exact .inr ⟨_, htrace⟩

/-- Settles O16: an instruction makes at most one primitive call or delay, and the other steps make none. -/
theorem oneEventPerStep : Obligations.OneEventPerStep := by
  unfold Obligations.OneEventPerStep
  intro s t hstep
  cases step_kind hstep with
  | reset rest _ ht => exact .inl (ht ▸ rfl)
  | silent moves _ ht => exact .inl (ht ▸ rfl)
  | illegal r rest _ _ e _ ht => exact .inl (ht ▸ rfl)
  | runs i moves _ _ _ _ hexec => exact exec_trace (s := { s with inputs := moves }) hexec
  | starts i r rest _ _ _ hexec => exact exec_trace (s := State.hostWrite r { s with inputs := rest }) hexec

theorem exec_memoryWf (hs : s.transport.memoryWf) (h : exec i s = .next t) : t.transport.memoryWf := by
  obtain ⟨htransport, -⟩ | ⟨p, a, htransport, -⟩ := (exec_effect h).environment
  · rwa [htransport]
  · rw [htransport]
    exact Transport.after_memoryWf hs s.config p

/-- Settles O56: an instruction makes at most one primitive call, which keeps the form, and the other steps leave the
transport alone. -/
theorem arrayStaysCanonical : Obligations.ArrayStaysCanonical := by
  unfold Obligations.ArrayStaysCanonical
  intro s t hs hstep
  cases step_kind hstep with
  | reset rest _ ht => subst ht; exact hs
  | silent moves _ ht => subst ht; exact hs
  | illegal r rest _ _ e _ ht => subst ht; exact hs
  | runs i moves _ _ _ _ hexec => exact exec_memoryWf (s := { s with inputs := moves }) hs hexec
  | starts i r rest _ _ _ hexec => exact exec_memoryWf (s := State.hostWrite r { s with inputs := rest }) hs hexec

/-- R26: no instruction writes `current_address`. -/
theorem exec_currentAddress (h : exec i s = .next t) : t.ctrl.currentAddress = s.ctrl.currentAddress := by
  obtain hctrl | ⟨-, -, ht⟩ := (exec_effect h).ctrl
  · rw [hctrl]
  · rw [ht]
    rfl

/-- R101: `INITIALIZE` has one code. -/
theorem eq_code_of_initialize {b : Byte} (h : decodeRequest b = .ok .opInitialize) : b = 0x01 :=
  (List.singleton_inj.1 (encode_of_decodeRequest Config.standard h).1).symm

/-- R28, R65: an instruction that the code in `OP` names raises `bus_up` at I1 of `INITIALIZE` only. -/
theorem exec_busUp (hcode : decodeRequest s.io.op = .ok i) (h : exec i s = .next t) :
    t.seq.busUp = s.seq.busUp ∨ t.seq.busUp = true ∧ s.seq.phase = .i1 ∧ t.io.op = 0x01 := by
  refine (exec_effect h).busUp.imp_right ?_
  rintro ⟨rfl, hphase, hbus⟩
  exact ⟨hbus, hphase, (exec_effect h).op.trans (eq_code_of_initialize hcode)⟩

theorem decodeRequest_of_operation (h : s.operation = some i) : decodeRequest s.io.op = .ok i := by
  unfold State.operation at h
  cases hcode : decodeRequest s.io.op with
  | error e => simp [hcode] at h
  | ok j => simpa [hcode] using h

/-- Settles O19: a reset keeps the parameters; every other step keeps the cursor too, and `bus_up` but at I1. -/
theorem parametersCursorAndBusFlag : Obligations.ParametersCursorAndBusFlag := by
  unfold Obligations.ParametersCursorAndBusFlag
  intro s t hstep
  cases step_kind hstep with
  | reset rest hinputs ht => subst ht; exact ⟨rfl, .inl ⟨rest, hinputs⟩⟩
  | silent moves _ ht => subst ht; exact ⟨rfl, .inr ⟨rfl, .inl rfl⟩⟩
  | illegal r rest _ _ e _ ht => subst ht; exact ⟨rfl, .inr ⟨rfl, .inl rfl⟩⟩
  | runs i moves _ _ _ hi hexec =>
    let u : State := { s with inputs := moves }
    exact ⟨(exec_effect hexec).config, .inr ⟨exec_currentAddress (s := u) hexec,
      exec_busUp (s := u) (decodeRequest_of_operation hi) hexec⟩⟩
  | starts i r rest _ _ hcode hexec =>
    let u : State := State.hostWrite r { s with inputs := rest }
    exact ⟨(exec_effect hexec).config, .inr ⟨exec_currentAddress (s := u) hexec, exec_busUp (s := u) hcode hexec⟩⟩

end Sys2Proof.Machine
end

section
/-! Everything a step of a host operation can be (30_encoding.md R110, 20_memory.md R83, R84): a bus command with the
sequencer moved on, or one of the few moves of `Quiet`. The invariants below go through these two, not through the
operations' arms. -/

namespace Sys2Proof.Machine

/-- `t` is what the bus command `c` makes of `s`, the sequencer moved on to a label of operation `i` (and the harness's
counter set, log 13). -/
inductive Sent (i c : Instr) (s : State) : State → Prop
  | moved (u : State) (n : Nat) (p : Phase) (hu : exec c s = .next u) (hp : p ∈ labelsOf i) :
    Sent i c s ({ u with polls := n }.goto p)

/-- What a step of operation `i` that sends no bus command makes of `s`. -/
inductive Quiet (i : Instr) (s : State) : State → Prop
  /-- R21: the request is taken up. -/
  | start (p : Phase) (hidle : s.seq.phase = .idle) (hp : (labelsOf i).head? = some p) : Quiet i s (s.startAt p)
  /-- No primitive: at most scratch is written. -/
  | advance (x : Scratch) (p : Phase) (hidle : s.seq.phase ≠ .idle) (hp : p ∈ labelsOf i) :
    Quiet i s ((s.withScratch x).goto p)
  /-- R154: step 11 of `INITIALIZE`. -/
  | record (hi : i = .opInitialize) (hphase : s.seq.phase = .i11) : Quiet i s (s.recordDevice.goto .i12)
  /-- R147: step 6c of `INITIALIZE`. -/
  | delay (hi : i = .opInitialize) (hphase : s.seq.phase = .i6c) :
    Quiet i s ((s.delay Config.resetDelayUs).goto .i7)
  /-- R141: step 1 of `INITIALIZE`. -/
  | begin (hi : i = .opInitialize) (hphase : s.seq.phase = .i1) : Quiet i s (s.beginBus.goto .i2)
  /-- R190, R192 to R194. -/
  | memRead (addr n : Word) (hphase : s.seq.phase = .b1) (hp : .b2 ∈ labelsOf i) :
    Quiet i s ((s.memRead addr n).goto .b2)
  /-- R191. -/
  | memWrite (hi : i = .opWriteBuffer) (hphase : s.seq.phase = .b1) : Quiet i s (s.memWrite.goto .b2)
  /-- R201. -/
  | eraseSector (addr : Word) (hi : i = .opEraseSector) (hphase : s.seq.phase = .e2) :
    Quiet i s ((s.eraseSector addr).goto .e3)
  /-- R15: the normal end; success is a status of the operation in its mode. -/
  | succeed (v : Word) (hidle : s.seq.phase ≠ .idle)
    (hst : s.seq.phase ∈ labelsIn s.config i → 0 ∈ statusesOf s.config i) : Quiet i s (s.endOk v)
  /-- R15, R222: the end by a failure that is a status of the operation in its mode. -/
  | fail (e : Failure) (hidle : s.seq.phase ≠ .idle)
    (hst : s.seq.phase ∈ labelsIn s.config i → e.code ∈ statusesOf s.config i) :
    Quiet i s (s.endFailed e (failureValueOf s.config i))
  /-- R190: the end that delivers `RBUF`. -/
  | deliver (bytes : List Byte) (v : Word) (hi : i = .opReadBuffer) (hphase : s.seq.phase = .b2) :
    Quiet i s (s.endRead bytes v)

variable {s t : State} {i c : Instr}

theorem sent_goto {u : State} {p : Phase} (hu : exec c s = .next u) (hp : p ∈ labelsOf i) : Sent i c s (u.goto p) :=
  .moved u u.polls p hu hp

theorem sent_of_poll {k : BusCommand} {mask : Byte} {again after : Phase} (hc : exec c s = .next (s.readStatus k))
    (hagain : again ∈ labelsOf i) (hafter : after ∈ labelsOf i) (h : s.poll k mask again after = .next t) :
    Sent i c s t := by
  obtain ⟨-, ⟨-, rfl⟩ | ⟨-, rfl⟩⟩ := poll_cases h
  · exact .moved _ _ _ hc hagain
  · exact .moved _ _ _ hc hafter

/-- R148: the command of step 7r is the one that reads the register `quadStatusCommand` names. -/
theorem sent_quadRead : Sent .opInitialize (if s.seq.scratch.device.singleStatusByte then .cmdRdsr1 else .cmdRdsr2) s
    s.quadRead := by
  refine sent_goto ?_ (by split <;> simp [labelsOf])
  unfold quadStatusCommand
  split <;> rfl

/-- R150: the command of step 7c is the one that `quadWrite` names. -/
theorem sent_quadEnableWrite : Sent .opInitialize
    (if s.seq.scratch.device.writeStatusRegisterSplit then .cmdWrsr2 [s.seq.scratch.img1]
      else if s.seq.scratch.device.singleStatusByte then .cmdWrsr1 [s.seq.scratch.img1]
      else .cmdWrsr1 [s.seq.scratch.img0, s.seq.scratch.img1]) s s.quadEnableWrite := by
  refine sent_goto ?_ (by simp [labelsOf])
  unfold quadWrite
  split
  · rfl
  · split <;> rfl

/-- Everything a step of operation `i` can be. -/
inductive Move (i : Instr) (s t : State) : Prop
  | sent (c : Instr) (hc : commandSentAt i s = some c) (h : Sent i c s t)
  | quiet (hc : commandSentAt i s = none) (h : Quiet i s t)

/-- The steps of `INITIALIZE` (R140): the request, the labels that send a command, those of the busy-poll, and the rest
one by one. -/
theorem initialize_move (h : execInitialize s = .next t) : Move .opInitialize s t := by
  simp only [execInitialize] at h
  cases hp : s.seq.phase <;> simp only [hp, reduceCtorEq] at h
  case idle => cases h; exact .quiet (by simp [commandSentAt, hp]) (.start .g hp rfl)
  case i2 | i6a | i6b | i7a | i8a | i8b | i9 =>
    cases h
    exact .sent _ (by simp only [commandSentAt, hp]; rfl) (sent_goto (by rfl) (by decide))
  case i4 | i5 | i10 =>
    exact .sent _ (by simp only [commandSentAt, hp]; rfl) (sent_of_poll (by rfl) (by decide) (by decide) h)
  case i7r => cases h; exact .sent _ (by simp only [commandSentAt, hp]) sent_quadRead
  case i7c => cases h; exact .sent _ (by simp only [commandSentAt, hp]) sent_quadEnableWrite
  case g =>
    cases h
    refine .quiet (by simp [commandSentAt, hp]) ?_
    split
    · exact .fail .stateError (by simp [hp]) (fun _ => by simp [statusesOf, Failure.code])
    · exact .advance _ .i1 (by simp [hp]) (by decide)
  case i1 => cases h; exact .quiet (by simp [commandSentAt, hp]) (.begin rfl hp)
  case i3 =>
    cases h
    refine .quiet (by simp [commandSentAt, hp]) ?_
    obtain ⟨-, ht⟩ | ⟨k, d, -, ht⟩ := identify_cases s <;> rw [ht]
    · exact .fail .unsupportedDevice (by simp [hp]) (fun _ => by simp [statusesOf, Failure.code])
    · exact .advance _ .i4 (by simp [hp]) (by decide)
  case i6c => cases h; exact .quiet (by simp [commandSentAt, hp]) (.delay rfl hp)
  case i7 | i8 =>
    cases h
    exact .quiet (by simp [commandSentAt, hp]) (.advance _ _ (by simp [hp]) (by split <;> decide))
  case i7b => cases h; exact .quiet (by simp [commandSentAt, hp]) (.advance _ .i7c (by simp [hp]) (by decide))
  case i11 => cases h; exact .quiet (by simp [commandSentAt, hp]) (.record rfl hp)
  case i12 =>
    cases h
    exact .quiet (by simp [commandSentAt, hp]) (.succeed 1 (by simp [hp]) (fun _ => by simp [statusesOf]))

/-- R231: the gate goes on to a label of the operation or fails with its failure value. -/
theorem quiet_gate {p : Phase} (hidle : s.seq.phase ≠ .idle) (hp : p ∈ labelsOf i)
    (hst : s.seq.phase ∈ labelsIn s.config i → 4 ∈ statusesOf s.config i) :
    Quiet i s (s.gate (failureValueOf s.config i) p) := by
  obtain ⟨-, h⟩ | ⟨-, h⟩ := gate_cases (failureValueOf s.config i) p s <;> rw [h]
  · exact .advance _ p hidle hp
  · exact .fail .stateError hidle hst

/-- R15: an end that hangs on a boolean. -/
theorem quiet_end {ok : Bool} {v : Word} (hidle : s.seq.phase ≠ .idle)
    (hst : s.seq.phase ∈ labelsIn s.config i →
      (ok = true → 0 ∈ statusesOf s.config i) ∧ (ok = false → 2 ∈ statusesOf s.config i)) :
    Quiet i s (if ok then s.endOk v else s.endFailed .transportFailure (failureValueOf s.config i)) := by
  cases ok with
  | true => exact .succeed v hidle (fun hlabel => (hst hlabel).1 rfl)
  | false => exact .fail .transportFailure hidle (fun hlabel => (hst hlabel).2 rfl)

/-- The steps of `READ_BUFFER` (R190). -/
theorem readBuffer_move (h : execReadBuffer s = .next t) : Move .opReadBuffer s t := by
  simp only [execReadBuffer] at h
  cases hp : s.seq.phase <;> simp only [hp, reduceCtorEq] at h
  case idle => cases h; exact .quiet (by simp [commandSentAt]) (.start .g hp rfl)
  case g =>
    cases h
    exact .quiet (by simp [commandSentAt]) (quiet_gate (by simp [hp]) (by decide) (fun _ => by simp [statusesOf]))
  case b1 => cases h; exact .quiet (by simp [commandSentAt]) (.memRead _ _ hp (by decide))
  case b2 =>
    cases h
    refine .quiet (by simp [commandSentAt]) ?_
    split
    · exact .deliver _ _ rfl hp
    · exact .fail .transportFailure (by simp [hp]) (fun _ => by simp [statusesOf, Failure.code])

/-- The steps of `WRITE_BUFFER` (R191). -/
theorem writeBuffer_move (h : execWriteBuffer s = .next t) : Move .opWriteBuffer s t := by
  simp only [execWriteBuffer] at h
  cases hp : s.seq.phase <;> simp only [hp, reduceCtorEq] at h
  case idle => cases h; exact .quiet (by simp [commandSentAt]) (.start .g hp rfl)
  case g =>
    cases h
    exact .quiet (by simp [commandSentAt]) (quiet_gate (by simp [hp]) (by decide) (fun _ => by simp [statusesOf]))
  case b1 => cases h; exact .quiet (by simp [commandSentAt]) (.memWrite rfl hp)
  case b2 =>
    cases h
    exact .quiet (by simp [commandSentAt]) (quiet_end (by simp [hp]) (fun _ => by simp [statusesOf]))

/-- The steps of a typed read (R192 to R194), for each of the three operations. -/
theorem typedRead_move {n : Word} {value : List Byte → Word} (hquiet : commandSentAt i s = none)
    (hlabels : labelsOf i = [.g, .b1, .b2]) (hstatuses : statusesOf s.config i = [0, 2, 4])
    (h : typedRead n value (failureValueOf s.config i) s = .next t) : Move i s t := by
  simp only [typedRead] at h
  refine .quiet hquiet ?_
  cases hp : s.seq.phase <;> simp only [hp, reduceCtorEq] at h
  case idle => cases h; exact .start .g hp (by simp [hlabels])
  case g => cases h; exact quiet_gate (by simp [hp]) (by simp [hlabels]) (by simp [hstatuses])
  case b1 => cases h; exact .memRead _ _ hp (by simp [hlabels])
  case b2 => cases h; exact quiet_end (by simp [hp]) (by simp [hstatuses])

/-- The steps of `CHIP_ERASE` (R200). -/
theorem chipErase_move (h : execChipErase s = .next t) : Move .opChipErase s t := by
  simp only [execChipErase] at h
  cases hp : s.seq.phase <;> simp only [hp, reduceCtorEq] at h
  case idle => cases h; exact .quiet (by simp [commandSentAt, hp]) (.start .g hp rfl)
  case g =>
    cases h
    exact .quiet (by simp [commandSentAt, hp]) (quiet_gate (by simp [hp]) (by decide) (fun _ => by simp [statusesOf]))
  case c1 | c2 =>
    cases h
    exact .sent _ (by simp only [commandSentAt, hp]; rfl) (sent_goto (by rfl) (by decide))
  case c3 => exact .sent _ (by simp only [commandSentAt, hp]; rfl) (sent_of_poll (by rfl) (by decide) (by decide) h)
  case c4 =>
    cases h
    exact .quiet (by simp [commandSentAt, hp]) (.succeed 0 (by simp [hp]) (fun _ => by simp [statusesOf]))

/-- The steps of `ERASE_SECTOR` (R201); only mode `propagate` lets it fail at E3. -/
theorem eraseSector_move (h : execEraseSector s = .next t) : Move .opEraseSector s t := by
  simp only [execEraseSector] at h
  cases hp : s.seq.phase <;> simp only [hp, reduceCtorEq] at h
  case idle => cases h; exact .quiet (by simp [commandSentAt]) (.start .g hp rfl)
  case g =>
    cases h
    exact .quiet (by simp [commandSentAt])
      (quiet_gate (by simp [hp]) (by decide) (fun _ => by
        cases hmode : s.config.eraseSectorResult <;> simp [statusesOf, hmode]))
  case e1 => cases h; exact .quiet (by simp [commandSentAt]) (.advance _ .e2 (by simp [hp]) (by decide))
  case e2 => cases h; exact .quiet (by simp [commandSentAt]) (.eraseSector _ rfl hp)
  case e3 =>
    cases h
    refine .quiet (by simp [commandSentAt]) (quiet_end (by simp [hp]) (fun _ => ?_))
    cases hmode : s.config.eraseSectorResult <;> simp [statusesOf, State.eraseReported, hmode]

/-- The steps of `ERASE_BLOCK` (R202); which end it has is a matter of its mode, and so are its labels. -/
theorem eraseBlock_move (h : execEraseBlock s = .next t) : Move .opEraseBlock s t := by
  simp only [execEraseBlock] at h
  cases hp : s.seq.phase <;> simp only [hp, reduceCtorEq] at h
  case idle => cases h; exact .quiet (by simp [commandSentAt, hp]) (.start .g hp rfl)
  case g =>
    cases h
    refine .quiet (by simp [commandSentAt, hp]) (quiet_gate (by simp [hp]) ?_ (fun _ => ?_)) <;>
      cases hmode : s.config.eraseBlockMode <;> simp [eraseBlockEntry, labelsOf, statusesOf, hmode]
  case k0 =>
    cases h
    refine .quiet (by simp [commandSentAt, hp]) (.fail .notImplemented (by simp [hp]) ?_)
    cases hmode : s.config.eraseBlockMode <;> simp [labelsIn, statusesOf, Failure.code, hmode, hp]
  case k1 => cases h; exact .sent _ (by simp only [commandSentAt, hp]; rfl) (sent_goto (by rfl) (by decide))
  case k2 => exact .sent _ (by simp only [commandSentAt, hp]; rfl) (sent_of_poll (by rfl) (by decide) (by decide) h)
  case k3 =>
    cases h
    refine .quiet (by simp [commandSentAt, hp]) (.succeed 0 (by simp [hp]) ?_)
    cases hmode : s.config.eraseBlockMode <;> simp [labelsIn, statusesOf, hmode, hp]

/-- The steps of `READ_MFR_DEV_ID` (R171). -/
theorem mfrDevId_move (h : execReadMfrDevId s = .next t) : Move .opReadMfrDevId s t := by
  simp only [execReadMfrDevId] at h
  cases hp : s.seq.phase <;> simp only [hp, reduceCtorEq] at h
  case idle => cases h; exact .quiet (by simp [commandSentAt, hp]) (.start .m1 hp rfl)
  case m1 => cases h; exact .sent .cmdRdid (by simp only [commandSentAt, hp]) (sent_goto rfl (by decide))
  case m2 =>
    cases h
    exact .quiet (by simp [commandSentAt, hp]) (.succeed _ (by simp [hp]) (fun _ => by simp [statusesOf]))

/-- The steps of `READ_JEDEC_ID` (R172). -/
theorem jedecId_move (h : execReadJedecId s = .next t) : Move .opReadJedecId s t := by
  simp only [execReadJedecId] at h
  cases hp : s.seq.phase <;> simp only [hp, reduceCtorEq] at h
  case idle => cases h; exact .quiet (by simp [commandSentAt, hp]) (.start .j1 hp rfl)
  case j1 => cases h; exact .sent .cmdRdid (by simp only [commandSentAt, hp]) (sent_goto rfl (by decide))
  case j2 =>
    cases h
    exact .quiet (by simp [commandSentAt, hp]) (.succeed _ (by simp [hp]) (fun _ => by simp [statusesOf]))

/-- The steps of a geometry accessor (R175 to R177), for each of the three operations. -/
theorem accessor_move {v : Word} (hquiet : commandSentAt i s = none) (hlabels : labelsOf i = [.acc])
    (hstatuses : statusesOf s.config i = [0]) (h : accessor v s = .next t) : Move i s t := by
  simp only [accessor] at h
  refine .quiet hquiet ?_
  cases hp : s.seq.phase <;> simp only [hp, reduceCtorEq] at h
  case idle => cases h; exact .start .acc hp (by simp [hlabels])
  case acc => cases h; exact .succeed _ (by simp [hp]) (by simp [hstatuses])

/-- The steps of a status read (R180, R181), for each of the two operations. -/
theorem statusRead_move {k : BusCommand} (hsends : commandSentAt i s = if s.seq.phase = .s1 then some c else none)
    (hcommand : exec c s = .next (s.readStatus k)) (hlabels : labelsOf i = [.s1, .s2])
    (hstatuses : statusesOf s.config i = [0]) (h : statusRead k s = .next t) : Move i s t := by
  simp only [statusRead] at h
  cases hp : s.seq.phase <;> simp only [hp, reduceCtorEq] at h
  case idle => cases h; exact .quiet (by simp [hsends, hp]) (.start .s1 hp (by simp [hlabels]))
  case s1 => cases h; exact .sent c (by simp [hsends, hp]) (sent_goto hcommand (by simp [hlabels]))
  case s2 => cases h; exact .quiet (by simp [hsends, hp]) (.succeed _ (by simp [hp]) (by simp [hstatuses]))

theorem commandSentAt_readStatus1 (s : State) :
    commandSentAt .opReadStatus1 s = if s.seq.phase = .s1 then some .cmdRdsr1 else none := by
  by_cases hp : s.seq.phase = .s1 <;> simp [commandSentAt, hp]

theorem commandSentAt_readStatus2 (s : State) :
    commandSentAt .opReadStatus2 s = if s.seq.phase = .s1 then some .cmdRdsr2 else none := by
  by_cases hp : s.seq.phase = .s1 <;> simp [commandSentAt, hp]

/-- The steps of `WRITE_ENABLE` (R182). -/
theorem writeEnable_move (h : execWriteEnable s = .next t) : Move .opWriteEnable s t := by
  simp only [execWriteEnable] at h
  cases hp : s.seq.phase <;> simp only [hp, reduceCtorEq] at h
  case idle => cases h; exact .quiet (by simp [commandSentAt, hp]) (.start .w1 hp rfl)
  case w1 => cases h; exact .sent .cmdWren (by simp only [commandSentAt, hp]) (sent_goto rfl (by decide))
  case w2 =>
    cases h
    exact .quiet (by simp [commandSentAt, hp]) (quiet_end (by simp [hp]) (fun _ => by simp [statusesOf]))

/-- Everything a step of a host operation can be. -/
theorem exec_move (hhost : i.space = .host) (h : exec i s = .next t) : Move i s t := by
  cases i with
  | opInitialize => exact initialize_move h
  | opReadBuffer => exact readBuffer_move h
  | opWriteBuffer => exact writeBuffer_move h
  | opRead8 | opRead16 | opRead32 => exact typedRead_move (by simp [commandSentAt]) rfl rfl h
  | opChipErase => exact chipErase_move h
  | opEraseSector => exact eraseSector_move h
  | opEraseBlock => exact eraseBlock_move h
  | opReadMfrDevId => exact mfrDevId_move h
  | opReadJedecId => exact jedecId_move h
  | opGetTotalSize | opGetPageSize | opGetPageCount => exact accessor_move (by simp [commandSentAt]) rfl rfl h
  | opReadStatus1 => exact statusRead_move (commandSentAt_readStatus1 s) rfl rfl rfl h
  | opReadStatus2 => exact statusRead_move (commandSentAt_readStatus2 s) rfl rfl rfl h
  | opWriteEnable => exact writeEnable_move h
  | _ => cases hhost

end Sys2Proof.Machine
end

section
/-! The bus commands (30_encoding.md R110, R111): the commands an operation sends, and what each leaves alone. -/

namespace Sys2Proof.Machine

variable {s t u : State} {i c : Instr}

/-- R110, R121: what an operation sends is a bus command with a payload its command takes. -/
theorem commandSentAt_wf (h : commandSentAt i s = some c) : c.space = .bus ∧ c.wf = true := by
  unfold commandSentAt at h
  split at h
  case h_6 => cases h; split <;> exact ⟨rfl, rfl⟩ -- I7r, by the register that holds the bit
  case h_8 => cases h; split_ifs <;> exact ⟨rfl, rfl⟩ -- I7c, by the descriptor's flags
  all_goals cases h
  all_goals exact ⟨rfl, rfl⟩

/-- R200: the chip erase is sent at C2 of `CHIP_ERASE` only. -/
theorem eq_c2_of_commandSentAt_ce (h : commandSentAt i s = some .cmdCe) : i = .opChipErase ∧ s.seq.phase = .c2 := by
  unfold commandSentAt at h
  split at h
  case h_14 hp => exact ⟨rfl, hp⟩
  case h_6 | h_8 => dsimp only at h; split_ifs at h <;> cases h -- I7r and I7c, by the descriptor's flags
  all_goals cases h

/-- R111: a bus command writes no register of the host interface and does not move the sequencer. -/
theorem busCommand_frame (hbus : c.space = .bus) (h : exec c s = .next u) :
    u.io = s.io ∧ u.seq.phase = s.seq.phase := by
  cases c with
  | cmdRdid | cmdRdsr1 | cmdRdsr2 | cmdWrsr1 | cmdWrsr2 | cmdWren | cmdWrdi | cmdRsten | cmdRst | cmdCe =>
    cases h
    exact ⟨rfl, rfl⟩
  | _ => cases hbus

/-- R110, R121: a bus command with a payload it takes records one event of its shape. -/
theorem busCommand_event (hbus : c.space = .bus) (hwf : c.wf = true) (h : exec c s = .next u) :
    ∃ e, u.trace = s.trace ++ [e] ∧ e.Shaped s.config := by
  cases c with
  | cmdRdid | cmdRdsr1 | cmdRdsr2 =>
    cases h
    exact ⟨_, rfl, ask_bytes_length .., by simp [Config.byteOf]⟩
  | cmdWrsr1 payload => cases h; exact ⟨_, rfl, .inl ⟨rfl, by simpa [Instr.wf] using hwf⟩⟩
  | cmdWrsr2 payload => cases h; exact ⟨_, rfl, .inr ⟨rfl, by simpa [Instr.wf] using hwf⟩⟩
  | cmdWren | cmdWrdi | cmdRsten | cmdRst | cmdCe =>
    cases h
    exact ⟨_, rfl, by simp [Event.Shaped, Primitive.event, Config.byteOf]⟩
  | _ => cases hbus

theorem Chip.afterWrite_array (p : Config) (op : Byte) (payload : List Byte) (chip : Chip) :
    (chip.afterWrite p op payload).mem = chip.mem ∧ (chip.afterWrite p op payload).size = chip.size := by
  unfold Chip.afterWrite
  dsimp only
  split
  · split <;> exact ⟨rfl, rfl⟩
  · exact ⟨rfl, rfl⟩

/-- R67: a status write keeps the array. -/
theorem arrayKept_of_writeCommand {p : Config} {op : Byte} {payload : List Byte}
    (h : t.transport = s.transport.after p (.writeCommand op payload)) : s.ArrayKept t :=
  arrayKept_of_after (p := .writeCommand op payload) (Chip.afterWrite_array p op payload) h

/-- The array is the transport's. -/
theorem arrayKept_of_transport (h : t.transport = s.transport) : s.ArrayKept t := by
  intro addr
  simp [State.arrayByte, h]

/-- R240: every bus command but the chip erase keeps the array. -/
theorem busCommand_arrayKept (hbus : c.space = .bus) (hce : c ≠ .cmdCe) (h : exec c s = .next u) : s.ArrayKept u := by
  cases c with
  | cmdRdid | cmdRdsr1 | cmdRdsr2 => cases h; exact arrayKept_of_readCommand rfl
  | cmdWrsr1 payload | cmdWrsr2 payload => cases h; exact arrayKept_of_writeCommand rfl
  | cmdWren => cases h; exact arrayKept_of_runCommand (k := .wren) nofun rfl
  | cmdWrdi => cases h; exact arrayKept_of_runCommand (k := .wrdi) nofun rfl
  | cmdRsten => cases h; exact arrayKept_of_runCommand (k := .rsten) nofun rfl
  | cmdRst => cases h; exact arrayKept_of_runCommand (k := .rst) nofun rfl
  | cmdCe => exact absurd rfl hce
  | _ => cases hbus

end Sys2Proof.Machine
end

section
/-! What follows from the kinds of steps: the events, the host's registers, the endings and the array. -/

namespace Sys2Proof.Machine

variable {s t : State} {i c : Instr}

/-- R70: whether an event is a bus command. -/
def Event.isCommand : Event → Bool
  | .readCmd _ _ _ | .writeCmd _ _ | .runCmd _ _ => true
  | .begin | .readMem _ _ _ _ | .writeMem _ _ _ | .eraseSector _ _ | .delay _ => false

/-- R70: a step that sends no bus command records at most one event, and none of a bus command. -/
theorem Quiet.event (h : Quiet i s t) :
    t.trace = s.trace ∨ ∃ e, t.trace = s.trace ++ [e] ∧ e.isCommand = false ∧ e.Shaped s.config := by
  cases h with
  | start | advance | record | succeed | fail | deliver => exact .inl rfl
  | delay => exact .inr ⟨_, rfl, rfl, rfl⟩
  | begin | memWrite | eraseSector => exact .inr ⟨_, rfl, rfl, trivial⟩
  | memRead => exact .inr ⟨_, rfl, rfl, ask_bytes_length ..⟩

/-- Settles O32: a step is the command of its label with the sequencer moved on, or it records no command's event. -/
theorem operationsSendTheirCommands : Obligations.OperationsSendTheirCommands := by
  unfold Obligations.OperationsSendTheirCommands
  intro i s u hhost hexec
  obtain ⟨c, hc, hsent⟩ | ⟨hc, hquiet⟩ := exec_move hhost hexec
  · refine ⟨fun c' hc' => ?_, by simp [hc]⟩
    cases hc.symm.trans hc'
    obtain ⟨t, n, p, ht, -⟩ := hsent
    exact ⟨t, ht, rfl⟩
  · refine ⟨by simp [hc], fun _ e he => ?_⟩
    have hcommand : e.isCommand = false := by
      obtain htrace | ⟨e', htrace, hcommand, -⟩ := hquiet.event
      · simp [htrace] at he
      · cases List.append_cancel_left (htrace.symm.trans he)
        exact hcommand
    exact ⟨fun _ _ _ h => by simp [h, Event.isCommand] at hcommand,
      fun _ _ h => by simp [h, Event.isCommand] at hcommand,
      fun _ _ h => by simp [h, Event.isCommand] at hcommand⟩

/-- R121: the events of a host operation are shaped. -/
theorem exec_shaped (hhost : i.space = .host) (hs : ∀ e ∈ s.trace, e.Shaped s.config) (h : exec i s = .next t) :
    ∀ e ∈ t.trace, e.Shaped t.config := by
  rw [(exec_effect h).config]
  have hevent : t.trace = s.trace ∨ ∃ e, t.trace = s.trace ++ [e] ∧ e.Shaped s.config := by
    obtain ⟨c, hc, u, n, p, hu, -⟩ | ⟨-, hquiet⟩ := exec_move hhost h
    · obtain ⟨hbus, hwf⟩ := commandSentAt_wf hc
      exact .inr (busCommand_event (u := u) hbus hwf hu)
    · exact hquiet.event.imp_right fun ⟨e, htrace, _, he⟩ => ⟨e, htrace, he⟩
  obtain htrace | ⟨e, htrace, he⟩ := hevent
  · rwa [htrace]
  · rw [htrace]
    simpa [or_imp, forall_and] using ⟨hs, he⟩

/-- Settles O15: the event a step adds is a bus command's own or one of the few of `Quiet`. -/
theorem eventsStayShaped : Obligations.EventsStayShaped := by
  unfold Obligations.EventsStayShaped
  intro s t hs hstep
  cases step_kind hstep with
  | reset rest _ ht => subst ht; exact hs
  | silent moves _ ht => subst ht; exact hs
  | illegal r rest _ _ e _ ht => subst ht; exact hs
  | runs i moves _ _ _ hi hexec => exact exec_shaped (s := { s with inputs := moves }) (operation_host hi) hs hexec
  | starts i r rest _ _ hcode hexec =>
    exact exec_shaped (s := State.hostWrite r { s with inputs := rest }) (decodeRequest_host hcode) hs hexec

/-- R22: a step of an operation ends it, or leaves the host interface as it is, `busy` apart. -/
theorem exec_io (hhost : i.space = .host) (h : exec i s = .next t) :
    t.io.busy = false ∨ t.io = s.io ∨ t.io = { s.io with busy := true } := by
  obtain ⟨c, hc, u, n, p, hu, -⟩ | ⟨-, hquiet⟩ := exec_move hhost h
  · exact .inr (.inl (busCommand_frame (commandSentAt_wf hc).1 hu).1)
  · cases hquiet with
    | start => exact .inr (.inr rfl)
    | succeed | fail | deliver => exact .inl rfl
    | _ => exact .inr (.inl rfl)

/-- Settles O20: while busy a step is one of the operation in flight, or a reset, which is not busy behind it; and no
instruction writes what the host writes. -/
theorem hostRegistersHeld : Obligations.HostRegistersHeld := by
  unfold Obligations.HostRegistersHeld
  intro s t hstep
  cases step_kind hstep with
  | reset rest hinputs ht =>
    exact ⟨fun _ hbusy => by simp [ht, HostInterface.atReset] at hbusy, fun h => absurd hinputs (h rest)⟩
  | silent moves hidle ht => subst ht; exact ⟨fun hbusy => by simp [hidle] at hbusy, fun _ _ => ⟨rfl, rfl, rfl, rfl⟩⟩
  | illegal r rest hinputs hidle =>
    exact ⟨fun hbusy => by simp [hidle] at hbusy, fun _ h => by simp [hidle, hinputs] at h⟩
  | starts i r rest hinputs hidle =>
    exact ⟨fun hbusy => by simp [hidle] at hbusy, fun _ h => by simp [hidle, hinputs] at h⟩
  | runs i moves _ _ _ hi hexec =>
    have hkeep := exec_effect hexec
    refine ⟨fun _ hbusy => ?_, fun _ _ => ⟨hkeep.op, hkeep.a0, hkeep.a1, hkeep.wbuf⟩⟩
    obtain hended | hio | hio := exec_io (operation_host hi) hexec
    · simp [hended] at hbusy
    · rw [hio]
      exact ⟨rfl, rfl, rfl⟩
    · rw [hio]
      exact ⟨rfl, rfl, rfl⟩

/-- A command stands the sequencer at a label of its operation. -/
theorem Sent.phase_mem (h : Sent i c s t) : t.seq.phase ∈ labelsOf i := by
  obtain ⟨u, n, p, -, hp⟩ := h
  exact hp

/-- The ways an operation ends, from a label that is its own in its mode. -/
theorem exec_ending (hhost : i.space = .host) (hidle : s.seq.phase ≠ .idle) (hended : t.seq.phase = .idle)
    (h : exec i s = .next t) :
    (∃ v, t = s.endOk v ∧ (s.seq.phase ∈ labelsIn s.config i → 0 ∈ statusesOf s.config i)) ∨
    (∃ e, t = s.endFailed e (failureValueOf s.config i) ∧
      (s.seq.phase ∈ labelsIn s.config i → e.code ∈ statusesOf s.config i)) ∨
    ∃ bytes v, t = s.endRead bytes v ∧ i = .opReadBuffer := by
  obtain ⟨c, -, hsent⟩ | ⟨-, hquiet⟩ := exec_move hhost h
  · exact absurd hended (ne_idle_of_mem_labelsOf hsent.phase_mem)
  · cases hquiet with
    | succeed v _ hst => exact .inl ⟨v, rfl, hst⟩
    | fail e _ hst => exact .inr (.inl ⟨e, rfl, hst⟩)
    | deliver bytes v hi => exact .inr (.inr ⟨bytes, v, rfl, hi⟩)
    | start p hs => exact absurd hs hidle
    | advance x p _ hp => exact absurd hended (ne_idle_of_mem_labelsOf hp)
    | _ => cases hended

/-- Settles O23: each of the three endings writes the result registers and draws the free values; only a failure has a
status that is not 0. -/
theorem endingWritesOnlyTheResult : Obligations.EndingWritesOnlyTheResult := by
  unfold Obligations.EndingWritesOnlyTheResult
  intro i s t hexec hidle hended hhost
  obtain ⟨v, rfl, -⟩ | ⟨e, rfl, -⟩ | ⟨bytes, v, rfl, -⟩ := exec_ending hhost hidle hended hexec
  · exact ⟨rfl, fun hst => absurd rfl hst⟩
  · exact ⟨rfl, fun _ => rfl⟩
  · exact ⟨rfl, fun hst => absurd rfl hst⟩

theorem host_of_mem_labelsOf {p : Phase} (h : p ∈ labelsOf i) : i.space = .host := by
  cases i with
  | cmdRdid | cmdRdsr1 | cmdRdsr2 | cmdWrsr1 | cmdWrsr2 | cmdWren | cmdWrdi | cmdRsten | cmdRst | cmdCe => cases h
  | _ => rfl

/-- Settles O24: each of the three endings has a status of the operation in its mode. -/
theorem operationsEndWithTheirStatuses : Obligations.OperationsEndWithTheirStatuses := by
  unfold Obligations.OperationsEndWithTheirStatuses
  intro i s t hexec hlabel hended
  have hown := mem_labelsOf_of_mem_labelsIn hlabel
  obtain ⟨v, rfl, hst⟩ | ⟨e, rfl, hst⟩ | ⟨bytes, v, rfl, rfl⟩ :=
    exec_ending (host_of_mem_labelsOf hown) (ne_idle_of_mem_labelsOf hown) hended hexec
  · exact hst hlabel
  · exact hst hlabel
  · simp [statusesOf]

/-- Settles O57: the other bus commands keep the array, and of the steps that send none only the two memory writes do
not. -/
theorem arrayChangedOnlyByThreeSteps : Obligations.ArrayChangedOnlyByThreeSteps := by
  unfold Obligations.ArrayChangedOnlyByThreeSteps
  intro i s t hexec hce hchip hwrite herase
  cases hspace : i.space with
  | bus => exact busCommand_arrayKept hspace hce hexec
  | host =>
    obtain ⟨c, hc, u, n, p, hu, -⟩ | ⟨-, hquiet⟩ := exec_move hspace hexec
    · refine busCommand_arrayKept (u := u) (commandSentAt_wf hc).1 ?_ hu
      rintro rfl
      exact hchip (eq_c2_of_commandSentAt_ce hc)
    · cases hquiet with
      | begin => exact arrayKept_of_after (p := .begin) (c := s.config) (fun _ => ⟨rfl, rfl⟩) rfl
      | memRead => exact arrayKept_of_memRead rfl
      | memWrite hi hphase => exact absurd ⟨hi, hphase⟩ hwrite
      | eraseSector _ hi hphase => exact absurd ⟨hi, hphase⟩ herase
      | _ => exact arrayKept_of_transport rfl

end Sys2Proof.Machine
end

section
/-! The controller registers (10_state.md R24 to R26, 41_initialize.md R143, R154): what they describe, and that only
INITIALIZE's step 11 and a reset write them. -/

namespace Sys2Proof.Machine

variable {s t : State} {i : Instr}

/-- R143: where step 4 to step 11 of `INITIALIZE` come from: step 3 has just found a row, or the step before keeps it. -/
theorem initialize_identified (h : exec .opInitialize s = .next t) (ht : t.seq.phase ∈ identifiedLabels) :
    (∃ k, t.seq.scratch.cand = some k ∧ s.config.catalog[k]? = some t.seq.scratch.device) ∨
      (s.seq.phase ∈ identifiedLabels ∧ t.seq.scratch.cand = s.seq.scratch.cand ∧
        t.seq.scratch.device = s.seq.scratch.device) := by
  simp only [exec, execInitialize] at h
  cases hp : s.seq.phase <;> simp only [hp, reduceCtorEq] at h
  case i3 => -- step 3
    cases h
    obtain ⟨-, hend⟩ | ⟨k, d, hlookup, hfound⟩ := identify_cases s
    · simp [hend, identifiedLabels] at ht
    · rw [hfound]
      exact .inl ⟨k, rfl, ((lookup_eq_some_iff _ _ _ _).1 hlookup).1⟩
  case i4 | i5 | i10 => -- the busy-polls
    obtain ⟨-, ⟨-, rfl⟩ | ⟨-, rfl⟩⟩ := poll_cases h <;> exact .inr ⟨by simp [identifiedLabels], rfl, rfl⟩
  case idle | i1 | i2 | i11 | i12 => cases h; simp [identifiedLabels] at ht -- to a label before step 4 or behind step 11
  case g => cases h; split at ht <;> simp [identifiedLabels] at ht -- the gate
  all_goals -- the other steps from step 6 to step 9
    cases h
    exact .inr ⟨by simp [identifiedLabels], rfl, rfl⟩

/-- R232: an `INITIALIZE` that is past its gate and before its last step has no active device, or had passed the gate. -/
theorem initialize_past_gate (h : exec .opInitialize s = .next t) (hbusy : t.io.busy = true) (hg : t.seq.phase ≠ .g) :
    s.ctrl.activeDevice = none ∨ s.seq.phase ≠ .idle ∧ s.seq.phase ≠ .g ∧ s.seq.phase ≠ .i12 := by
  by_cases hgate : s.seq.phase = .g
  · left
    by_contra hdevice
    cases (exec_initialize_g_of_active hgate hdevice).symm.trans h
    cases hbusy
  · refine .inr ⟨fun hidle => ?_, hgate, fun hlast => ?_⟩
    · cases (exec_initialize_idle hidle).symm.trans h
      exact hg rfl
    · cases (exec_initialize_i12 hlast).symm.trans h
      cases hbusy

/-- A step of the operation in flight, or of the one a request has just brought, keeps the registers truthful. -/
theorem described_of_exec (hs : s.Described) (hi : s.operation = some i) (h : exec i s = .next t) : t.Described := by
  obtain ⟨hconsistent, hactive, hnone, hpast, hrow⟩ := hs
  have hkeep := exec_effect h
  have hop : t.operation = some i := (operation_congr hkeep.op).trans hi
  have hphase := hconsistent.phase_cases hi
  have hbusy_of : s.seq.phase ≠ .idle → s.io.busy = true := fun hne => (hphase.resolve_left hne).1
  refine ⟨consistent_of_exec hi hphase h, ?_⟩
  obtain hctrl | ⟨rfl, hlast, rfl⟩ := hkeep.ctrl
  · rw [hctrl, hkeep.config]
    refine ⟨hactive, hnone, fun hbusy hinit hg _ => ?_, fun hbusy hinit hlabel => ?_⟩
    · cases hop.symm.trans hinit
      obtain hdevice | ⟨hne, hg', hlast'⟩ := initialize_past_gate h hbusy hg
      · exact hdevice
      · exact hpast (hbusy_of hne) hi hg' hlast'
    · cases hop.symm.trans hinit
      obtain hfound | ⟨hlabel', hcand, hdevice⟩ := initialize_identified h hlabel
      · exact hfound
      · rw [hcand, hdevice]
        exact hrow (hbusy_of fun hidle => by simp [hidle, identifiedLabels] at hlabel') hi hlabel'
  · -- step 11 records the row that the sequencer has found
    obtain ⟨k, hcand, hcatalog⟩ := hrow (hbusy_of (by simp [hlast])) hi (by simp [hlast, identifiedLabels])
    refine ⟨fun k' hk' => ⟨s.seq.scratch.device, ?_, rfl, rfl, rfl⟩, fun hno => ?_, ?_, ?_⟩
    · cases hcand.symm.trans hk'
      exact hcatalog
    · cases hcand.symm.trans hno
    · exact fun _ _ _ hne => absurd rfl hne
    · intro _ _ hlabel
      simp [identifiedLabels] at hlabel

/-- With the engine idle the claims on a running INITIALIZE say nothing. -/
theorem described_of_idle (hbusy : t.io.busy = false) (hphase : t.seq.phase = .idle)
    (hactive : ∀ k, t.ctrl.activeDevice = some k → ∃ d, t.config.catalog[k]? = some d ∧
      t.ctrl.totalSize = d.totalSize ∧ t.ctrl.pageSize = 256 ∧ t.ctrl.pageCount = d.totalSize / 256)
    (hnone : t.ctrl.activeDevice = none → t.ctrl.totalSize = t.config.geomReset.totalSize ∧
      t.ctrl.pageSize = t.config.geomReset.pageSize ∧ t.ctrl.pageCount = t.config.geomReset.pageCount) :
    t.Described :=
  ⟨consistent_of_idle hbusy hphase, hactive, hnone, by simp [hbusy], by simp [hbusy]⟩

/-- The controller at its reset record, and no operation in flight. -/
theorem described_of_reset (hbusy : t.io.busy = false) (hphase : t.seq.phase = .idle)
    (hctrl : t.ctrl = Controller.atReset t.config) : t.Described :=
  described_of_idle hbusy hphase (by simp [hctrl, Controller.atReset]) (fun _ => by simp [hctrl, Controller.atReset])

/-- A request met by an idle engine writes nothing the claims speak of. -/
theorem described_hostWrite (hs : s.Described) (hbusy : s.io.busy = false) (r : Request) (rest : List HostMove) :
    (State.hostWrite r { s with inputs := rest }).Described := by
  obtain ⟨hconsistent, hactive, hnone, -, -⟩ := hs
  exact described_of_idle hbusy (hconsistent.phase_eq_idle hbusy) hactive hnone

/-- Settles O17: a reset and a reserved code leave the engine idle with truthful registers; an instruction is one in
flight or one that starts from `IDLE`. -/
theorem geometryDescribesActiveDevice : Obligations.GeometryDescribesActiveDevice := by
  unfold Obligations.GeometryDescribesActiveDevice
  intro s t hs hstep
  cases step_kind hstep with
  | reset rest _ ht => subst ht; exact described_of_reset rfl rfl rfl
  | silent moves _ ht => subst ht; exact hs
  | illegal r rest _ _ e _ ht =>
    obtain ⟨-, hactive, hnone, -, -⟩ := hs
    subst ht
    exact described_of_idle rfl rfl hactive hnone
  | runs i moves _ _ _ hi hexec => exact described_of_exec (s := { s with inputs := moves }) hs hi hexec
  | starts i r rest _ hbusy hcode hexec =>
    exact described_of_exec (described_hostWrite hs hbusy r rest) (operation_eq_some hcode) hexec

/-- Settles O18: an instruction writes the controller at step 11 of INITIALIZE only, which runs without an active
device. -/
theorem controllerFixedOnceInitialized : Obligations.ControllerFixedOnceInitialized := by
  unfold Obligations.ControllerFixedOnceInitialized
  intro s t hs hdevice hstep
  obtain ⟨hconsistent, -, -, hpast, -⟩ := hs
  cases step_kind hstep with
  | reset rest hinputs => exact .inr ⟨rest, hinputs⟩
  | silent moves _ ht => exact .inl (ht ▸ rfl)
  | illegal r rest _ _ e _ ht => exact .inl (ht ▸ rfl)
  | runs i moves _ hbusy _ hi hexec =>
    obtain hctrl | ⟨rfl, hphase, -⟩ := (exec_effect hexec).ctrl
    · exact .inl hctrl
    · have hphase : s.seq.phase = .i11 := hphase
      have hnone := hpast hbusy hi (by simp [hphase]) (by simp [hphase])
      simp [State.initialized, hnone] at hdevice
  | starts i r rest _ hbusy hcode hexec =>
    obtain hctrl | ⟨-, hphase, -⟩ := (exec_effect hexec).ctrl
    · exact .inl hctrl
    · cases (hconsistent.phase_eq_idle hbusy).symm.trans hphase

end Sys2Proof.Machine
end

section
/-! The order of the trace (41_initialize.md section 3, 20_memory.md R84, 60_exceptions.md R157, R158). -/

namespace Sys2Proof.Machine

variable {s t u : State} {i c : Instr}

/-- An event placed where it may stand keeps a trace ordered. -/
theorem traceOrdered_append {p : Config} {trace : List Event} {e : Event} (htrace : TraceOrdered p trace)
    (he : e.PrecededBy p trace.getLast?) : TraceOrdered p (trace ++ [e]) := by
  intro earlier e' later h
  obtain rfl | ⟨later, x, rfl⟩ := later.eq_nil_or_concat
  · obtain ⟨rfl, hlast⟩ := List.append_inj' h rfl
    cases hlast
    exact he
  · rw [List.concat_eq_append, ← List.cons_append, ← List.append_assoc] at h
    exact htrace earlier e' later (List.append_inj' h rfl).1

/-- R8: distinct command bytes tell the commands apart. -/
theorem byteOf_inj {p : Config} (hdistinct : p.DistinctCommands) {j k : BusCommand} :
    p.byteOf j = p.byteOf k ↔ j = k := by
  refine ⟨fun h => ?_, fun h => h ▸ rfl⟩
  have hj := commandOf_byteOf hdistinct j
  rw [h, commandOf_byteOf hdistinct k] at hj
  exact (Option.some.inj hj).symm

/-- R84, R146, R158: what must stand before a run command, by which command it is. -/
theorem precededBy_runCmd {p : Config} (hdistinct : p.DistinctCommands) (before : Option Event) (k : BusCommand)
    (ok : Bool) : (Event.runCmd (p.byteOf k) ok).PrecededBy p before ↔
      (k = .ce → ∃ ok, before = some (.runCmd p.cmdWren ok)) ∧
      (k = .rst → ∃ ok, before = some (.runCmd p.cmdRsten ok)) ∧
      (k = .rsten → ∃ status, before = some (.readCmd p.cmdRdsr2 1 [status]) ∧ bitsSet status p.susMask = false) := by
  rw [← byteOf_inj hdistinct, ← byteOf_inj (j := k) (k := .rst) hdistinct,
    ← byteOf_inj (j := k) (k := .rsten) hdistinct]
  rfl

/-- A command that an operation sends stands where it may, given what the sequencer's label promises. -/
theorem commandSentAt_preceded (hdistinct : s.config.DistinctCommands) (hc : commandSentAt i s = some c)
    (hpre : PhasePrecondition s.config i s.seq.phase s.trace.getLast?) (hu : exec c s = .next u) :
    ∃ e, u.trace = s.trace ++ [e] ∧ e.PrecededBy s.config s.trace.getLast? := by
  unfold commandSentAt at hc
  split at hc
  case h_4 hp => -- the reset enable, at I6a
    cases hc; cases hu
    simp only [hp] at hpre
    exact ⟨_, rfl, (precededBy_runCmd hdistinct _ .rsten _).2 ⟨nofun, nofun, fun _ => hpre⟩⟩
  case h_5 hp => -- the chip reset, at I6b
    cases hc; cases hu
    simp only [hp] at hpre
    exact ⟨_, rfl, (precededBy_runCmd hdistinct _ .rst _).2 ⟨nofun, fun _ => hpre, nofun⟩⟩
  case h_14 hp => -- the chip erase, at C2
    cases hc; cases hu
    simp only [hp] at hpre
    exact ⟨_, rfl, (precededBy_runCmd hdistinct _ .ce _).2 ⟨fun _ => hpre, nofun, nofun⟩⟩
  case h_8 hp => -- the quad-enable write, at I7c
    simp only [hp] at hpre
    dsimp only at hc
    split_ifs at hc <;> cases hc <;> cases hu <;> exact ⟨_, rfl, hpre⟩
  case h_10 hp => -- the protection clear, at I8b
    cases hc; cases hu
    simp only [hp] at hpre
    exact ⟨_, rfl, hpre⟩
  case h_7 | h_9 | h_13 | h_16 | h_22 => -- write-enable
    cases hc; cases hu
    exact ⟨_, rfl, (precededBy_runCmd hdistinct _ .wren _).2 ⟨nofun, nofun, nofun⟩⟩
  case h_11 => -- write-disable
    cases hc; cases hu
    exact ⟨_, rfl, (precededBy_runCmd hdistinct _ .wrdi _).2 ⟨nofun, nofun, nofun⟩⟩
  case h_6 => -- the read at I7r
    dsimp only at hc
    split_ifs at hc <;> cases hc <;> cases hu <;> exact ⟨_, rfl, trivial⟩
  case h_23 => cases hc
  all_goals -- the other reads
    cases hc; cases hu
    exact ⟨_, rfl, trivial⟩

/-- A step that sends no command: only the delay must stand behind something. -/
theorem Quiet.preceded (h : Quiet i s t) (hpre : PhasePrecondition s.config i s.seq.phase s.trace.getLast?) :
    t.trace = s.trace ∨ ∃ e, t.trace = s.trace ++ [e] ∧ e.PrecededBy s.config s.trace.getLast? := by
  cases h with
  | start | advance | record | succeed | fail | deliver => exact .inl rfl
  | delay hi hphase =>
    subst hi
    simp only [hphase] at hpre
    exact .inr ⟨_, rfl, hpre⟩
  | begin | memRead | memWrite | eraseSector => exact .inr ⟨_, rfl, trivial⟩

/-- R68: behind a run command its event is the last of the trace. -/
theorem runCommand_getLast? (s : State) (k : BusCommand) :
    ∃ ok, (s.runCommand k).trace.getLast? = some (.runCmd (s.config.byteOf k) ok) :=
  ⟨(s.ask (.runCommand (s.config.byteOf k))).ok, List.getLast?_concat⟩

/-- What INITIALIZE's labels promise of the last event is so at the label a step goes to. -/
theorem initialize_precondition (h : exec .opInitialize s = .next t)
    (hpre : PhasePrecondition s.config .opInitialize s.seq.phase s.trace.getLast?) :
    PhasePrecondition s.config .opInitialize t.seq.phase t.trace.getLast? := by
  simp only [exec, execInitialize] at h
  cases hp : s.seq.phase <;> simp only [hp, reduceCtorEq] at h
  case i5 => -- the last byte read is clear where it goes on to the reset enable
    obtain ⟨-, ⟨-, rfl⟩ | ⟨hclear, rfl⟩⟩ := poll_cases h
    · trivial
    · refine ⟨_, ?_, hclear⟩
      simp only [State.goto_trace, State.readStatus_trace, List.getLast?_concat]
      rw [ask_readCommand_one]
      rfl
  case i6a | i6b | i7a | i8a => -- the command sent is the last event
    cases h
    exact runCommand_getLast? s _
  case i7b => -- the trace is kept
    cases h
    simp only [hp] at hpre
    exact hpre
  case i4 | i10 => obtain ⟨-, ⟨-, rfl⟩ | ⟨-, rfl⟩⟩ := poll_cases h <;> trivial
  case i3 => cases h; obtain ⟨-, ht⟩ | ⟨k, d, -, ht⟩ := identify_cases s <;> rw [ht] <;> trivial
  case g => cases h; split <;> trivial
  case i7 | i7r => cases h; dsimp only [State.quadTest, State.quadRead]; split <;> trivial
  case i8 => cases h; cases s.seq.scratch.device.hasSectorProtection <;> trivial
  all_goals -- the labels behind which nothing is promised
    cases h
    trivial

/-- The same of CHIP_ERASE. -/
theorem chipErase_precondition (h : exec .opChipErase s = .next t) :
    PhasePrecondition s.config .opChipErase t.seq.phase t.trace.getLast? := by
  simp only [exec, execChipErase] at h
  cases hp : s.seq.phase <;> simp only [hp, reduceCtorEq] at h
  case c1 => -- the command sent is the last event
    cases h
    exact runCommand_getLast? s _
  case g => cases h; obtain ⟨-, ht⟩ | ⟨-, ht⟩ := gate_cases 0 .c1 s <;> rw [ht] <;> trivial
  case c3 => obtain ⟨-, ⟨-, rfl⟩ | ⟨-, rfl⟩⟩ := poll_cases h <;> trivial
  all_goals
    cases h
    trivial

/-- The same of every operation; the others' labels promise nothing. -/
theorem exec_precondition (hhost : i.space = .host) (h : exec i s = .next t)
    (hpre : PhasePrecondition s.config i s.seq.phase s.trace.getLast?) :
    PhasePrecondition s.config i t.seq.phase t.trace.getLast? := by
  cases i with
  | opInitialize => exact initialize_precondition h hpre
  | opChipErase => exact chipErase_precondition h
  | _ => simp [PhasePrecondition]

/-- A step of the operation in flight, or of the one a request has just brought, keeps the trace in order. -/
theorem ordered_of_exec (hs : s.Ordered) (hi : s.operation = some i) (h : exec i s = .next t) : t.Ordered := by
  obtain ⟨hdistinct, hconsistent, htrace, hpromise⟩ := hs
  have hkeep := exec_effect h
  have hop : t.operation = some i := (operation_congr hkeep.op).trans hi
  have hhost := operation_host hi
  have hphase := hconsistent.phase_cases hi
  have hpre : PhasePrecondition s.config i s.seq.phase s.trace.getLast? := by
    obtain hidle | ⟨hbusy, -⟩ := hphase
    · simp [PhasePrecondition, hidle]
    · exact hpromise i hbusy hi
  have hevent : t.trace = s.trace ∨ ∃ e, t.trace = s.trace ++ [e] ∧ e.PrecededBy s.config s.trace.getLast? := by
    obtain ⟨c, hc, u, n, p, hu, -⟩ | ⟨-, hquiet⟩ := exec_move hhost h
    · exact .inr (commandSentAt_preceded (u := u) hdistinct hc hpre hu)
    · exact hquiet.preceded hpre
  refine ⟨hkeep.config ▸ hdistinct, consistent_of_exec hi hphase h, ?_, fun j _ hj => ?_⟩
  · rw [hkeep.config]
    obtain hsame | ⟨e, hadded, he⟩ := hevent
    · rwa [hsame]
    · rw [hadded]
      exact traceOrdered_append htrace he
  · cases hop.symm.trans hj
    rw [hkeep.config]
    exact exec_precondition hhost h hpre

/-- With the engine idle no label promises anything. -/
theorem ordered_of_idle (hdistinct : t.config.DistinctCommands) (hbusy : t.io.busy = false)
    (hphase : t.seq.phase = .idle) (htrace : TraceOrdered t.config t.trace) : t.Ordered :=
  ⟨hdistinct, consistent_of_idle hbusy hphase, htrace, by simp [hbusy]⟩

/-- Settles O14: a reset and a reserved code leave the trace alone and the engine idle; an instruction adds at most one
event, which stands where its label has promised. -/
theorem traceStaysOrdered : Obligations.TraceStaysOrdered := by
  unfold Obligations.TraceStaysOrdered
  intro s t hs hstep
  cases step_kind hstep with
  | reset rest _ ht =>
    obtain ⟨hdistinct, -, htrace, -⟩ := hs
    subst ht
    exact ordered_of_idle hdistinct rfl rfl htrace
  | silent moves _ ht => subst ht; exact hs
  | illegal r rest _ _ e _ ht =>
    obtain ⟨hdistinct, -, htrace, -⟩ := hs
    subst ht
    exact ordered_of_idle hdistinct rfl rfl htrace
  | runs i moves _ _ _ hi hexec => exact ordered_of_exec (s := { s with inputs := moves }) hs hi hexec
  | starts i r rest _ hbusy hcode hexec =>
    obtain ⟨hdistinct, hconsistent, htrace, -⟩ := hs
    have hu : (State.hostWrite r { s with inputs := rest }).Ordered :=
      ordered_of_idle hdistinct hbusy (hconsistent.phase_eq_idle hbusy) htrace
    exact ordered_of_exec hu (operation_eq_some hcode) hexec

/-- The trace of a machine that has done nothing. -/
theorem traceOrdered_nil (p : Config) : TraceOrdered p [] := by
  intro earlier e later h
  cases earlier <;> cases h

/-- Settles O12: after reset the engine is idle, the controller is at its reset record, the trace is empty and no chip
is attached. -/
theorem invariantsHoldAtReset : Obligations.InvariantsHoldAtReset := by
  unfold Obligations.InvariantsHoldAtReset
  intro c
  exact ⟨consistent_of_idle rfl rfl, described_of_reset rfl rfl rfl,
    fun hdistinct => ordered_of_idle hdistinct rfl rfl (traceOrdered_nil c), nofun, trivial⟩

end Sys2Proof.Machine
end

section
/-! Scratch that no later step reads (10_state.md R32, 93_implementation_defined.md U15). -/

namespace Sys2Proof.Machine

variable {s s' t : State} {i : Instr} {y : Scratch}

/-- `t` is `s` but for scratch, and what operation `i` can still read of that, at the label it stands at, is the same. -/
structure SameLive (i : Instr) (s t : State) : Prop where
  rest : t = s.withScratch t.seq.scratch
  live : s.io.busy = true →
    liveScratch (some i) s.seq.phase s.seq.scratch = liveScratch (some i) s.seq.phase t.seq.scratch

/-- Replacing the scratch of `s` by `y` changes nothing of its step to `s'` but dead scratch. -/
def KeepsLive (i : Instr) (y : Scratch) (s s' : State) : Prop :=
  ∃ t', exec i (s.withScratch y) = .next t' ∧ SameLive i s' t'

/-- R183: a busy-poll reads no scratch but the byte it has just written. -/
theorem poll_sameLive {k : BusCommand} {mask : Byte} {again after : Phase}
    (h : s.poll k mask again after = .next s')
    (hagain : ∀ b, liveScratch (some i) again { s.seq.scratch with status := b } =
      liveScratch (some i) again { y with status := b })
    (hafter : ∀ b, liveScratch (some i) after { s.seq.scratch with status := b } =
      liveScratch (some i) after { y with status := b }) :
    ∃ t', (s.withScratch y).poll k mask again after = .next t' ∧ SameLive i s' t' := by
  obtain ⟨hgoes, ⟨hbit, rfl⟩ | ⟨hbit, rfl⟩⟩ := poll_cases h
  · refine ⟨{ (s.withScratch y).readStatus k with polls := s.polls + 1 }.goto again, ?_, rfl, fun _ => by exact hagain _⟩
    unfold State.poll
    rw [show (s.withScratch y).pollLimitReached = false from hgoes, if_neg Bool.false_ne_true]
    exact if_pos hbit
  · refine ⟨{ (s.withScratch y).readStatus k with polls := 0 }.goto after, ?_, rfl, fun _ => by exact hafter _⟩
    unfold State.poll
    rw [show (s.withScratch y).pollLimitReached = false from hgoes, if_neg Bool.false_ne_true]
    exact if_neg (Bool.not_eq_true _ ▸ hbit)

/-- Scratch that is dead at both labels of a branch is dead where the branch goes. -/
theorem liveScratch_ite {b : Bool} {p q : Phase} {x : Scratch}
    (hp : liveScratch (some i) p x = liveScratch (some i) p y) (hq : liveScratch (some i) q x = liveScratch (some i) q y) :
    liveScratch (some i) (if b then p else q) x = liveScratch (some i) (if b then p else q) y := by
  cases b
  · exact hq
  · exact hp

/-- A branch between a label whose scratch is all dead and an end, on what is no scratch. -/
theorem sameLive_ite {b : Bool} {u v u' v' : State} (hu : SameLive i u u') (hv : SameLive i v v') :
    SameLive i (if b then u else v) (if b then u' else v') := by
  cases b
  · exact hv
  · exact hu

/-- R143: step 3 reads the identification, and binds `cand` and `d`, or ends. -/
theorem identify_sameLive (hident : y.ident = s.seq.scratch.ident) :
    SameLive .opInitialize s.identify (s.withScratch y).identify := by
  obtain ⟨hnone, ht⟩ | ⟨k, d, hsome, ht⟩ := identify_cases s <;> rw [← hident] at * <;> rw [ht]
  · rw [identify_of_lookup_none (s := s.withScratch y) hnone]
    exact ⟨rfl, nofun⟩
  · rw [identify_of_lookup_some (s := s.withScratch y) hsome]
    exact ⟨rfl, fun _ => rfl⟩

/-! For each operation, label by label: with the scratch in its fields, what is live at the label is the same in both
states, and the step reads nothing else. -/

theorem initialize_keepsLive (h : exec .opInitialize s = .next s')
    (hy : liveScratch (some .opInitialize) s.seq.phase s.seq.scratch = liveScratch (some .opInitialize) s.seq.phase y) :
    KeepsLive .opInitialize y s s' := by
  obtain ⟨config, ctrl, io, ⟨phase, busUp, x⟩, transport, trace, inputs, draws, polls⟩ := s
  obtain ⟨ident, cand, device, status, img0, img1, ok, bytes, addr⟩ := x
  obtain ⟨ident', cand', device', status', img0', img1', ok', bytes', addr'⟩ := y
  cases phase with
  | idle | i1 | i2 | i6a | i6b | i6c | i7a | i7b | i7c | i8a | i8b | i9 | i11 | i12 =>
    cases hy; cases h
    exact ⟨_, rfl, rfl, fun _ => rfl⟩
  | g =>
    cases h
    exact ⟨_, rfl, sameLive_ite ⟨rfl, nofun⟩ ⟨rfl, fun _ => rfl⟩⟩
  | i3 =>
    cases hy; cases h
    exact ⟨_, rfl, identify_sameLive rfl⟩
  | i4 | i5 | i10 =>
    cases hy
    exact poll_sameLive h (fun _ => rfl) (fun _ => rfl)
  | i7 | i7r | i8 =>
    cases hy; cases h
    exact ⟨_, rfl, rfl, fun _ => by exact liveScratch_ite rfl rfl⟩
  | _ => cases h

theorem transfer_keepsLive (hi : i = .opReadBuffer ∨ i = .opWriteBuffer ∨ i = .opRead8 ∨ i = .opRead16 ∨ i = .opRead32)
    (h : exec i s = .next s')
    (hy : liveScratch (some i) s.seq.phase s.seq.scratch = liveScratch (some i) s.seq.phase y) : KeepsLive i y s s' := by
  obtain ⟨config, ctrl, io, ⟨phase, busUp, x⟩, transport, trace, inputs, draws, polls⟩ := s
  obtain ⟨ident, cand, device, status, img0, img1, ok, bytes, addr⟩ := x
  obtain ⟨ident', cand', device', status', img0', img1', ok', bytes', addr'⟩ := y
  rcases hi with rfl | rfl | rfl | rfl | rfl <;> cases phase with
  | idle | b1 => cases h; exact ⟨_, rfl, rfl, fun _ => rfl⟩
  | g => cases h; exact ⟨_, rfl, sameLive_ite ⟨rfl, fun _ => rfl⟩ ⟨rfl, nofun⟩⟩
  | b2 => cases hy; cases h; exact ⟨_, rfl, sameLive_ite ⟨rfl, nofun⟩ ⟨rfl, nofun⟩⟩
  | _ => cases h

theorem chipErase_keepsLive (h : exec .opChipErase s = .next s') : KeepsLive .opChipErase y s s' := by
  obtain ⟨config, ctrl, io, ⟨phase, busUp, x⟩, transport, trace, inputs, draws, polls⟩ := s
  cases phase with
  | idle | c1 | c2 | c4 => cases h; exact ⟨_, rfl, rfl, fun _ => rfl⟩
  | g => cases h; exact ⟨_, rfl, sameLive_ite ⟨rfl, fun _ => rfl⟩ ⟨rfl, nofun⟩⟩
  | c3 => exact poll_sameLive h (fun _ => rfl) (fun _ => rfl)
  | _ => cases h

theorem eraseSector_keepsLive (h : exec .opEraseSector s = .next s')
    (hy : liveScratch (some .opEraseSector) s.seq.phase s.seq.scratch = liveScratch (some .opEraseSector) s.seq.phase y) :
    KeepsLive .opEraseSector y s s' := by
  obtain ⟨config, ctrl, io, ⟨phase, busUp, x⟩, transport, trace, inputs, draws, polls⟩ := s
  obtain ⟨ident, cand, device, status, img0, img1, ok, bytes, addr⟩ := x
  obtain ⟨ident', cand', device', status', img0', img1', ok', bytes', addr'⟩ := y
  cases phase with
  | idle | e1 | e2 => cases hy; cases h; exact ⟨_, rfl, rfl, fun _ => rfl⟩
  | g => cases h; exact ⟨_, rfl, sameLive_ite ⟨rfl, fun _ => rfl⟩ ⟨rfl, nofun⟩⟩
  | e3 => cases hy; cases h; exact ⟨_, rfl, sameLive_ite ⟨rfl, nofun⟩ ⟨rfl, nofun⟩⟩
  | _ => cases h

/-- R202: behind the gate both modes' labels have all scratch dead. -/
theorem eraseBlock_keepsLive (h : exec .opEraseBlock s = .next s') : KeepsLive .opEraseBlock y s s' := by
  obtain ⟨config, ctrl, io, ⟨phase, busUp, x⟩, transport, trace, inputs, draws, polls⟩ := s
  cases phase with
  | idle | k0 | k1 | k3 => cases h; exact ⟨_, rfl, rfl, fun _ => rfl⟩
  | g =>
    cases h
    refine ⟨_, rfl, sameLive_ite ⟨rfl, fun _ => ?_⟩ ⟨rfl, nofun⟩⟩
    dsimp only
    cases config.eraseBlockMode <;> rfl
  | k2 => exact poll_sameLive h (fun _ => rfl) (fun _ => rfl)
  | _ => cases h

/-- The queries, whose labels are one that reads and one that ends, and the accessors. -/
theorem query_keepsLive (hi : i = .opReadMfrDevId ∨ i = .opReadJedecId ∨ i = .opGetTotalSize ∨ i = .opGetPageSize ∨
      i = .opGetPageCount ∨ i = .opReadStatus1 ∨ i = .opReadStatus2) (h : exec i s = .next s')
    (hy : liveScratch (some i) s.seq.phase s.seq.scratch = liveScratch (some i) s.seq.phase y) : KeepsLive i y s s' := by
  obtain ⟨config, ctrl, io, ⟨phase, busUp, x⟩, transport, trace, inputs, draws, polls⟩ := s
  obtain ⟨ident, cand, device, status, img0, img1, ok, bytes, addr⟩ := x
  obtain ⟨ident', cand', device', status', img0', img1', ok', bytes', addr'⟩ := y
  rcases hi with rfl | rfl | rfl | rfl | rfl | rfl | rfl <;> cases phase with
  | idle | m1 | j1 | s1 | acc => cases h <;> exact ⟨_, rfl, rfl, fun _ => rfl⟩
  | m2 | j2 | s2 => cases hy; cases h <;> exact ⟨_, rfl, rfl, fun _ => rfl⟩
  | _ => cases h

theorem writeEnable_keepsLive (h : exec .opWriteEnable s = .next s')
    (hy : liveScratch (some .opWriteEnable) s.seq.phase s.seq.scratch = liveScratch (some .opWriteEnable) s.seq.phase y) :
    KeepsLive .opWriteEnable y s s' := by
  obtain ⟨config, ctrl, io, ⟨phase, busUp, x⟩, transport, trace, inputs, draws, polls⟩ := s
  obtain ⟨ident, cand, device, status, img0, img1, ok, bytes, addr⟩ := x
  obtain ⟨ident', cand', device', status', img0', img1', ok', bytes', addr'⟩ := y
  cases phase with
  | idle | w1 => cases h; exact ⟨_, rfl, rfl, fun _ => rfl⟩
  | w2 => cases hy; cases h; exact ⟨_, rfl, sameLive_ite ⟨rfl, nofun⟩ ⟨rfl, nofun⟩⟩
  | _ => cases h

theorem exec_keepsLive (hhost : i.space = .host) (h : exec i s = .next s')
    (hy : liveScratch (some i) s.seq.phase s.seq.scratch = liveScratch (some i) s.seq.phase y) : KeepsLive i y s s' := by
  cases i with
  | opInitialize => exact initialize_keepsLive h hy
  | opReadBuffer | opWriteBuffer | opRead8 | opRead16 | opRead32 => exact transfer_keepsLive (by simp) h hy
  | opChipErase => exact chipErase_keepsLive h
  | opEraseSector => exact eraseSector_keepsLive h hy
  | opEraseBlock => exact eraseBlock_keepsLive h
  | opReadMfrDevId | opReadJedecId | opGetTotalSize | opGetPageSize | opGetPageCount | opReadStatus1 | opReadStatus2 =>
    exact query_keepsLive (by simp) h hy
  | opWriteEnable => exact writeEnable_keepsLive h hy
  | _ => cases hhost

/-- At the label where an operation starts all scratch is dead. -/
theorem liveScratch_head {p : Phase} (hp : (labelsOf i).head? = some p) (x : Scratch) :
    liveScratch (some i) p x = Scratch.blank := by
  cases i <;> cases hp <;> rfl

/-- What it is to differ in dead scratch only. -/
theorem live_eq_withScratch_iff : s.live = (s.withScratch y).live ↔
    (s.io.busy = true → liveScratch s.operation s.seq.phase s.seq.scratch = liveScratch s.operation s.seq.phase y) := by
  cases hbusy : s.io.busy with
  | false => simp [State.live, hbusy, State.withScratch]
  | true =>
    simp only [State.live, State.withScratch, hbusy, if_true, true_imp_iff, State.mk.injEq, Sequencer.mk.injEq, true_and,
      and_true]
    rfl

/-- States that differ in dead scratch only agree but for scratch. -/
theorem exists_withScratch_of_live_eq (h : s.live = t.live) : ∃ y, t = s.withScratch y := by
  obtain ⟨config, ctrl, io, ⟨phase, busUp, x⟩, transport, trace, inputs, draws, polls⟩ := s
  obtain ⟨config', ctrl', io', ⟨phase', busUp', y⟩, transport', trace', inputs', draws', polls'⟩ := t
  simp only [State.live, State.withScratch, State.mk.injEq, Sequencer.mk.injEq] at h
  obtain ⟨rfl, rfl, rfl, ⟨rfl, rfl, -⟩, rfl, rfl, rfl, rfl, rfl⟩ := h
  exact ⟨y, rfl⟩

theorem live_eq_of_sameLive (hi : s.operation = some i) (h : SameLive i s t) : s.live = t.live := by
  obtain ⟨hrest, hlive⟩ := h
  rw [hrest, live_eq_withScratch_iff, hi]
  exact hlive

/-- The engine's own turn, taken from two states that differ in dead scratch only. -/
theorem engineTurn_keepsLive {u : State} (hu : u.live = (u.withScratch y).live) (hfetch : fetch s = engineTurn u)
    (hfetch' : fetch t = engineTurn (u.withScratch y)) (h : step s = .next s') :
    ∃ t', step t = .next t' ∧ s'.live = t'.live := by
  obtain ⟨hbusy, i, hi, hturn⟩ | ⟨-, -, hturn⟩ | ⟨hbusy, hturn⟩ := engineTurn_cases u
  · rw [live_eq_withScratch_iff, hi] at hu
    rw [step_of_fetch_run (hfetch.trans hturn)] at h
    obtain ⟨t', ht', hsame⟩ := exec_keepsLive (operation_host hi) h (hu hbusy)
    have hturn' := engineTurn_of_busy (s := u.withScratch y) hbusy (decodeRequest_of_operation hi)
    exact ⟨t', (step_of_fetch_run (hfetch'.trans hturn')).trans ht',
      live_eq_of_sameLive ((operation_congr (exec_effect h).op).trans hi) hsame⟩
  · simp [step, hfetch.trans hturn] at h
  · cases (step_of_fetch_settled (hfetch.trans hturn)).symm.trans h
    have hturn' := engineTurn_of_idle (s := s'.withScratch y) hbusy
    exact ⟨_, step_of_fetch_settled (hfetch'.trans hturn'), hu⟩

/-- A request met by an idle engine: scratch is all dead, and stays so at the first label and behind a reserved code. -/
theorem acceptRequest_keepsLive {u : State} {r : Request} (hidle : u.seq.phase = .idle)
    (hfetch : fetch s = acceptRequest r u) (hfetch' : fetch t = acceptRequest r (u.withScratch y)) (h : step s = .next s') :
    ∃ t', step t = .next t' ∧ s'.live = t'.live := by
  have haccept' : acceptRequest r (u.withScratch y) = match decodeRequest r.op with
      | .ok i => .run i ((u.hostWrite r).withScratch y)
      | .error _ => .settled ((u.hostWrite r).illegalRequest.withScratch y) := rfl
  obtain ⟨i, hcode, haccept⟩ | ⟨e, hcode, haccept⟩ := acceptRequest_cases r u <;> rw [hcode] at haccept'
  · obtain ⟨p, hp, hexec⟩ := exec_idle (s := u.hostWrite r) (decodeRequest_host hcode) hidle
    obtain ⟨q, hq, hexec'⟩ := exec_idle (s := (u.hostWrite r).withScratch y) (decodeRequest_host hcode) hidle
    cases hp.symm.trans hq
    rw [step_of_fetch_run (hfetch.trans haccept), hexec] at h
    cases h
    refine ⟨_, (step_of_fetch_run (hfetch'.trans haccept')).trans hexec', ?_⟩
    refine live_eq_of_sameLive (operation_eq_some hcode) ⟨rfl, fun _ => ?_⟩
    exact (liveScratch_head hp _).trans (liveScratch_head hp _).symm
  · cases (step_of_fetch_settled (hfetch.trans haccept)).symm.trans h
    exact ⟨_, step_of_fetch_settled (hfetch'.trans haccept'), live_eq_withScratch_iff.2 nofun⟩

/-- Settles O21: a reset writes scratch; else the step is the engine's own turn, or a request met by an idle engine. -/
theorem deadScratchNeverShows : Obligations.DeadScratchNeverShows := by
  unfold Obligations.DeadScratchNeverShows
  intro s t s' hs hlive hstep
  obtain ⟨y, rfl⟩ := exists_withScratch_of_live_eq hlive
  cases hinputs : s.inputs with
  | nil => exact engineTurn_keepsLive hlive (by simp [fetch, hinputs]) (by simp [fetch, hinputs]) hstep
  | cons move rest =>
    let u : State := { s with inputs := rest }
    have hu : u.live = (u.withScratch y).live := by
      rw [live_eq_withScratch_iff] at hlive ⊢
      exact hlive
    cases move with
    | reset =>
      cases (step_of_reset hinputs).symm.trans hstep
      exact ⟨_, step_of_reset (s := s.withScratch y) hinputs, rfl⟩
    | wait =>
      exact engineTurn_keepsLive hu (by simp [fetch, hinputs, u])
        (by simp only [fetch, State.withScratch_inputs, hinputs]; rfl) hstep
    | request r =>
      cases hbusy : s.io.busy with
      | true =>
        exact engineTurn_keepsLive hlive (by simp [fetch, hinputs, hbusy]) (by simp [fetch, hinputs, hbusy]) hstep
      | false =>
        exact acceptRequest_keepsLive (u := u) (r := r) (hs.phase_eq_idle hbusy) (by simp [fetch, hinputs, hbusy, u])
          (by simp only [fetch, State.withScratch_inputs, State.withScratch_io, hinputs, hbusy]; rfl) hstep

end Sys2Proof.Machine
end

section
/-! Operands that an operation does not read (30_encoding.md R100, 45_erase.md R202). -/

namespace Sys2Proof.Machine

variable {s t : State} {i : Instr} {a0 a1 : Word} {wbuf : List Byte}

/-- R183: a busy-poll reads no operand. -/
theorem poll_withOperands {k : BusCommand} {mask : Byte} {again after : Phase} 
    (h : s.poll k mask again after = .next t) :
    (s.withOperands a0 a1 wbuf).poll k mask again after = .next (t.withOperands a0 a1 wbuf) := by
  obtain ⟨hgoes, ⟨hbit, rfl⟩ | ⟨hbit, rfl⟩⟩ := poll_cases h <;> unfold State.poll <;>
    rw [show (s.withOperands a0 a1 wbuf).pollLimitReached = false from hgoes, if_neg Bool.false_ne_true]
  · exact if_pos hbit
  · exact if_neg (Bool.not_eq_true _ ▸ hbit)

/-- A branch on what is no operand. -/
theorem next_ite_withOperands {b : Bool} {u v u' v' : State} (hu : u' = u.withOperands a0 a1 wbuf)
    (hv : v' = v.withOperands a0 a1 wbuf) :
    (Host.Outcome.next (if b then u' else v') : Result) = .next ((if b then u else v).withOperands a0 a1 wbuf) := by
  cases b
  · exact congrArg _ hv
  · exact congrArg _ hu

/-- R143: step 3 reads no operand. -/
theorem identify_withOperands : (s.withOperands a0 a1 wbuf).identify = s.identify.withOperands a0 a1 wbuf := by
  obtain ⟨hnone, ht⟩ | ⟨k, d, hsome, ht⟩ := identify_cases s <;> rw [ht]
  · exact identify_of_lookup_none (s := s.withOperands a0 a1 wbuf) hnone
  · exact identify_of_lookup_some (s := s.withOperands a0 a1 wbuf) hsome

/-! For each format, label by label: the step reads no replaced operand, so both sides are the same record. -/

theorem initialize_withOperands (h : exec .opInitialize s = .next t) :
    exec .opInitialize (s.withOperands a0 a1 wbuf) = .next (t.withOperands a0 a1 wbuf) := by
  obtain ⟨config, ctrl, io, ⟨phase, busUp, x⟩, transport, trace, inputs, draws, polls⟩ := s
  cases phase with
  | i4 | i5 | i10 => exact poll_withOperands h
  | i3 => cases h; exact congrArg Host.Outcome.next identify_withOperands
  | g => cases h; exact next_ite_withOperands rfl rfl
  | _ => cases h <;> rfl

theorem chipErase_withOperands (h : exec .opChipErase s = .next t) :
    exec .opChipErase (s.withOperands a0 a1 wbuf) = .next (t.withOperands a0 a1 wbuf) := by
  obtain ⟨config, ctrl, io, ⟨phase, busUp, x⟩, transport, trace, inputs, draws, polls⟩ := s
  cases phase with
  | c3 => exact poll_withOperands h
  | g => cases h; exact next_ite_withOperands rfl rfl
  | _ => cases h <;> rfl

/-- R202: the block number is read by no step. -/
theorem eraseBlock_withOperands (h : exec .opEraseBlock s = .next t) :
    exec .opEraseBlock (s.withOperands a0 a1 wbuf) = .next (t.withOperands a0 a1 wbuf) := by
  obtain ⟨config, ctrl, io, ⟨phase, busUp, x⟩, transport, trace, inputs, draws, polls⟩ := s
  cases phase with
  | k2 => exact poll_withOperands h
  | g => cases h; exact next_ite_withOperands rfl rfl
  | _ => cases h <;> rfl

/-- R170 to R182: the ungated queries. -/
theorem query_withOperands (hi : i = .opReadMfrDevId ∨ i = .opReadJedecId ∨ i = .opGetTotalSize ∨ i = .opGetPageSize ∨
      i = .opGetPageCount ∨ i = .opReadStatus1 ∨ i = .opReadStatus2 ∨ i = .opWriteEnable) (h : exec i s = .next t) :
    exec i (s.withOperands a0 a1 wbuf) = .next (t.withOperands a0 a1 wbuf) := by
  obtain ⟨config, ctrl, io, ⟨phase, busUp, x⟩, transport, trace, inputs, draws, polls⟩ := s
  rcases hi with rfl | rfl | rfl | rfl | rfl | rfl | rfl | rfl <;> cases phase with
  | w2 => cases h <;> exact next_ite_withOperands rfl rfl
  | _ => cases h <;> rfl

/-- R192 to R194, R201: the operations that read `a0` alone. -/
theorem req1_withOperands (hi : i = .opRead8 ∨ i = .opRead16 ∨ i = .opRead32 ∨ i = .opEraseSector)
    (h : exec i s = .next t) :
    exec i (s.withOperands s.io.a0 a1 wbuf) = .next (t.withOperands s.io.a0 a1 wbuf) := by
  obtain ⟨config, ctrl, io, ⟨phase, busUp, x⟩, transport, trace, inputs, draws, polls⟩ := s
  rcases hi with rfl | rfl | rfl | rfl <;> cases phase with
  | g | b2 | e3 => cases h <;> exact next_ite_withOperands rfl rfl
  | _ => cases h <;> rfl

/-- R190: `READ_BUFFER` reads `a0` and `a1`. -/
theorem readBuffer_withOperands (h : exec .opReadBuffer s = .next t) :
    exec .opReadBuffer (s.withOperands s.io.a0 s.io.a1 wbuf) = .next (t.withOperands s.io.a0 s.io.a1 wbuf) := by
  obtain ⟨config, ctrl, io, ⟨phase, busUp, x⟩, transport, trace, inputs, draws, polls⟩ := s
  cases phase with
  | g | b2 => cases h; exact next_ite_withOperands rfl rfl
  | _ => cases h <;> rfl

/-- Settles O22, by the operations of each format. -/
theorem unreadOperandsIgnored : Obligations.UnreadOperandsIgnored := by
  unfold Obligations.UnreadOperandsIgnored
  intro i s t a0 a1 wbuf h
  cases i with
  | opInitialize => exact ⟨fun _ => initialize_withOperands h, nofun, nofun⟩
  | opChipErase => exact ⟨fun _ => chipErase_withOperands h, nofun, nofun⟩
  | opEraseBlock => exact ⟨fun _ => eraseBlock_withOperands h, fun _ => eraseBlock_withOperands h, nofun⟩
  | opReadMfrDevId | opReadJedecId | opGetTotalSize | opGetPageSize | opGetPageCount | opReadStatus1 | opReadStatus2
  | opWriteEnable => exact ⟨fun _ => query_withOperands (by simp) h, nofun, nofun⟩
  | opRead8 | opRead16 | opRead32 | opEraseSector =>
    exact ⟨by simp [Instr.requestFormat], fun _ => req1_withOperands (by simp) h, nofun⟩
  | opReadBuffer => exact ⟨by simp [Instr.requestFormat], nofun, fun _ => readBuffer_withOperands h⟩
  | _ => simp [Instr.requestFormat]

end Sys2Proof.Machine
end

section
/-! The busy-poll (43_status_access.md R183, R184; 60_exceptions.md R219): one pass, a run of busy bytes, the whole
wait. -/

namespace Sys2Proof.Machine

variable {s t u : State} {i : Instr} {cmd : BusCommand} {mask : Byte} {after : Phase}

/-- Settles O28: the bound is tested before the read. -/
theorem pollLimitReportsNotFinished : Obligations.PollLimitReportsNotFinished := by
  unfold Obligations.PollLimitReportsNotFinished
  rintro i s n ⟨cmd, mask, after⟩ hplace hlimit hused
  have hreached : s.pollLimitReached = true := by simp [State.pollLimitReached, hlimit, hused]
  rw [exec_pollAt hplace, State.poll, if_pos hreached]

/-- R183: with the bound not used up a pass reads a byte, tests it and goes on. -/
theorem exec_poll_pass {b : Byte} (hplace : pollAt s.config i s.seq.phase = some (cmd, mask, after))
    (hlimit : ∀ n, s.config.pollLimit = some n → s.polls < n)
    (hbyte : (s.ask (.readCommand (s.config.byteOf cmd) 1)).bytes = [b]) :
    exec i s =
      if bitsSet b mask then .next ({ s.readStatus cmd with polls := s.polls + 1 }.goto s.seq.phase)
      else .next ({ s.readStatus cmd with polls := 0 }.goto after) := by
  have hstatus : (s.readStatus cmd).seq.scratch.status = b := by simp [hbyte]
  rw [exec_pollAt hplace, State.poll, pollLimitReached_eq_false hlimit, if_neg Bool.false_ne_true]
  simp only [hstatus]
  rfl

/-- R183: a masked byte is 0 when no tested bit is set. -/
theorem masked_eq_zero_iff {b : Byte} : b &&& mask = 0 ↔ bitsSet b mask = false := by
  simp [bitsSet]

/-- Settles O42: the byte the transport answers decides between the two ways of the pass. -/
theorem busyPollPass : Obligations.BusyPollPass := by
  unfold Obligations.BusyPollPass
  intro i s cmd mask after hplace hlimit
  obtain ⟨b, hbyte⟩ : ∃ b, (s.ask (.readCommand (s.config.byteOf cmd) 1)).bytes = [b] := ⟨_, ask_readCommand_one _ s⟩
  have htrace : (s.readStatus cmd).trace = s.trace ++ [.readCmd (s.config.byteOf cmd) 1 [b]] := by simp [hbyte]
  rw [exec_poll_pass hplace hlimit hbyte]
  simp only [masked_eq_zero_iff]
  cases hbit : bitsSet b mask <;>
    exact ⟨_, b, rfl, hbyte, htrace, by simp [hbit], by simp [hbit], ⟨rfl, rfl, rfl, rfl, rfl, rfl, rfl, rfl⟩, rfl⟩

/-- What a run of status reads by `cmd` does that the script answers with `bytes`, `rest` being what is left of it. -/
structure Polled (cmd : BusCommand) (bytes : List Byte) (rest : List Answer) (s t : State) : Prop where
  kept : s.Kept t
  io : t.io = s.io
  trace : t.trace = s.trace ++ statusEvents (s.config.byteOf cmd) bytes
  transport : t.transport = .scripted rest
  scratch : t.seq.scratch = { s.seq.scratch with status := t.seq.scratch.status }

/-- `Kept` is a chain of equations. -/
theorem State.Kept.trans (h : s.Kept t) (h' : t.Kept u) : s.Kept u := by
  simp_all [State.Kept]

theorem State.Kept.config (h : s.Kept t) : t.config = s.config := by
  obtain ⟨hconfig, -⟩ := h
  exact hconfig

theorem Polled.append {bytes bytes' : List Byte} {rest rest' : List Answer} (h : Polled cmd bytes rest s t)
    (h' : Polled cmd bytes' rest' t u) : Polled cmd (bytes ++ bytes') rest' s u where
  kept := h.kept.trans h'.kept
  io := h'.io.trans h.io
  trace := by simp [h'.trace, h.trace, h.kept.config, statusEvents]
  transport := h'.transport
  scratch := by rw [h'.scratch, h.scratch]

/-- One pass under a script. -/
theorem exec_poll_scripted {b : Byte} {rest : List Answer}
    (hplace : pollAt s.config i s.seq.phase = some (cmd, mask, after))
    (hlimit : ∀ n, s.config.pollLimit = some n → s.polls < n)
    (hscript : s.transport = .scripted (statusAnswers [b] ++ rest)) :
    ∃ t, exec i s = .next t ∧ Polled cmd [b] rest s t ∧ t.seq.phase = (if bitsSet b mask then s.seq.phase else after) ∧
      t.polls = (if bitsSet b mask then s.polls + 1 else 0) := by
  have hbyte := congrArg Answer.bytes
    (ask_scripted_exact (p := .readCommand (s.config.byteOf cmd) 1) (a := ⟨true, [b]⟩) hscript rfl)
  rw [exec_poll_pass hplace hlimit hbyte, readStatus_scripted (b := b) (rest := rest) hscript cmd]
  cases bitsSet b mask <;>
    exact ⟨_, rfl, ⟨⟨rfl, rfl, rfl, rfl, rfl, rfl, rfl, rfl⟩, rfl, rfl, rfl, rfl⟩, rfl, rfl⟩

/-- R219: busy bytes keep the operation polling. -/
theorem busyBytes_run {busy : List Byte} {rest : List Answer}
    (hplace : pollAt s.config i s.seq.phase = some (cmd, mask, after))
    (hlimit : ∀ n, s.config.pollLimit = some n → s.polls + busy.length ≤ n) (hbusy : ∀ b ∈ busy, bitsSet b mask = true)
    (hscript : s.transport = .scripted (statusAnswers busy ++ rest)) :
    ∃ t, execTimes i busy.length s = .next t ∧ Polled cmd busy rest s t ∧ t.seq.phase = s.seq.phase ∧
      t.polls = s.polls + busy.length := by
  induction busy generalizing s with
  | nil =>
    exact ⟨s, rfl, ⟨⟨rfl, rfl, rfl, rfl, rfl, rfl, rfl, rfl⟩, rfl, (List.append_nil _).symm, hscript, rfl⟩, rfl, rfl⟩
  | cons b busy ih =>
    simp only [List.length_cons] at hlimit
    obtain ⟨t, hexec, hpass, hphase, hpolls⟩ :=
      exec_poll_scripted hplace (fun n hn => by have := hlimit n hn; omega) hscript
    rw [if_pos (hbusy b List.mem_cons_self)] at hphase hpolls
    obtain ⟨u, hrun, hreads, hphase', hpolls'⟩ := ih (s := t) (by rw [hphase, hpass.kept.config]; exact hplace)
      (fun n hn => by rw [hpass.kept.config] at hn; have := hlimit n hn; omega)
      (fun b' hb' => hbusy b' (List.mem_cons_of_mem _ hb')) hpass.transport
    refine ⟨u, (execTimes_succ hexec _).trans hrun, hpass.append hreads, hphase'.trans hphase, ?_⟩
    rw [hpolls', hpolls, List.length_cons]
    omega

/-- R183: the first clear byte ends the wait. -/
theorem busyWait_run {busy : List Byte} {clear : Byte} {rest : List Answer}
    (hplace : pollAt s.config i s.seq.phase = some (cmd, mask, after))
    (hlimit : ∀ n, s.config.pollLimit = some n → s.polls + busy.length < n) (hbusy : ∀ b ∈ busy, bitsSet b mask = true)
    (hclear : bitsSet clear mask = false) (hscript : s.transport = .scripted (statusAnswers (busy ++ [clear]) ++ rest)) :
    ∃ t, execTimes i (busy.length + 1) s = .next t ∧ Polled cmd (busy ++ [clear]) rest s t ∧ t.seq.phase = after ∧
      t.polls = 0 := by
  rw [statusAnswers, List.map_append, List.append_assoc] at hscript
  obtain ⟨t, hrun, hreads, hphase, hpolls⟩ := busyBytes_run hplace (fun n hn => (hlimit n hn).le) hbusy hscript
  obtain ⟨u, hexec, hpass, hphase', hpolls'⟩ := exec_poll_scripted (s := t)
    (by rw [hphase, hreads.kept.config]; exact hplace)
    (fun n hn => by rw [hreads.kept.config] at hn; rw [hpolls]; exact hlimit n hn) hreads.transport
  rw [if_neg (Bool.not_eq_true _ ▸ hclear)] at hphase' hpolls'
  exact ⟨u, (execTimes_add hrun 1).trans (execTimes_succ hexec 0), hreads.append hpass, hphase', hpolls'⟩

/-- Settles O43, by the whole wait. -/
theorem busyWaitEndsAtFirstClear : Obligations.BusyWaitEndsAtFirstClear := by
  unfold Obligations.BusyWaitEndsAtFirstClear
  intro i s cmd mask after busy clear rest hplace hlimit hbusy hclear hscript
  obtain ⟨t, hrun, hreads, hphase, hpolls⟩ := busyWait_run hplace hlimit hbusy hclear hscript
  exact ⟨t, hrun, hphase, hreads.kept, hreads.io, hpolls, hreads.trace, hreads.transport⟩

/-- Settles O44, by the run of busy bytes. -/
theorem hangKeepsPolling : Obligations.HangKeepsPolling := by
  unfold Obligations.HangKeepsPolling
  intro i s cmd mask after busy rest hplace hlimit hbusy hscript
  obtain ⟨t, hrun, hreads, hphase, hpolls⟩ := busyBytes_run hplace hlimit hbusy hscript
  exact ⟨t, hrun, hphase, hreads.kept, hreads.io, hpolls, hreads.trace, hreads.transport⟩

end Sys2Proof.Machine
end

section
/-! The erase operations that poll (45_erase.md R200, R202), and the gate that turns requests away (R231). -/

namespace Sys2Proof.Machine

variable {s t : State}

/-- Settles O25, by the gate that every gated operation begins with. -/
theorem closedGateFailsFast : Obligations.ClosedGateFailsFast := by
  unfold Obligations.ClosedGateFailsFast
  exact fun i s hgated hidle hdevice => turnedAway_of_gated hgated hidle hdevice

theorem exec_chipErase_g (h : s.seq.phase = .g) (hdevice : s.ctrl.activeDevice ≠ none) :
    exec .opChipErase s = .next (s.goto .c1) := by
  simp [exec, execChipErase, h, gate_of_activeDevice hdevice]

theorem exec_chipErase_c1 (h : s.seq.phase = .c1) : exec .opChipErase s = .next ((s.runCommand .wren).goto .c2) := by
  simp [exec, execChipErase, h]

theorem exec_chipErase_c2 (h : s.seq.phase = .c2) : exec .opChipErase s = .next ((s.runCommand .ce).goto .c3) := by
  simp [exec, execChipErase, h]

theorem exec_chipErase_c4 (h : s.seq.phase = .c4) : exec .opChipErase s = .next (s.endOk 0) := by
  simp [exec, execChipErase, h]

theorem exec_eraseBlock_g (h : s.seq.phase = .g) (hdevice : s.ctrl.activeDevice ≠ none) :
    exec .opEraseBlock s = .next (s.goto (eraseBlockEntry s.config.eraseBlockMode)) := by
  simp [exec, execEraseBlock, h, gate_of_activeDevice hdevice]

theorem exec_eraseBlock_k0 (h : s.seq.phase = .k0) :
    exec .opEraseBlock s = .next (s.endFailed .notImplemented 0) := by
  simp [exec, execEraseBlock, h]

theorem exec_eraseBlock_k1 (h : s.seq.phase = .k1) :
    exec .opEraseBlock s = .next ((s.runCommand .wren).goto .k2) := by
  simp [exec, execEraseBlock, h]

theorem exec_eraseBlock_k3 (h : s.seq.phase = .k3) : exec .opEraseBlock s = .next (s.endOk 0) := by
  simp [exec, execEraseBlock, h]

/-- A run that begins with one step. -/
theorem execTimes_cons {i : Instr} {n : Nat} {u : State} (h : exec i s = .next t) (h' : execTimes i n t = .next u) :
    execTimes i (n + 1) s = .next u :=
  (execTimes_succ h n).trans h'

/-- A run command answered by a script: what is recorded, what is left of the script. -/
theorem runCommand_scripted {ok : Bool} {rest : List Answer} (h : s.transport = .scripted (⟨ok, []⟩ :: rest))
    (k : BusCommand) :
    (s.runCommand k).trace = s.trace ++ [.runCmd (s.config.byteOf k) ok] ∧
      (s.runCommand k).transport = .scripted rest := by
  have hask : s.ask (.runCommand (s.config.byteOf k)) = ⟨ok, []⟩ := ask_scripted_exact h rfl
  rw [State.runCommand_trace, State.runCommand_transport, hask, h, after_scripted rfl]
  exact ⟨rfl, rfl⟩

/-- Settles O54: the gate is open and its mode leads to K0, which fails. -/
theorem eraseBlockNotImplemented : Obligations.EraseBlockNotImplemented := by
  unfold Obligations.EraseBlockNotImplemented
  intro s hidle hdevice hmode
  have hentry : exec .opEraseBlock (s.startAt .g) = .next ((s.startAt .g).goto .k0) := by
    rw [exec_eraseBlock_g (s := s.startAt .g) rfl hdevice, State.startAt_config, hmode, eraseBlockEntry]
  exact ⟨_, _, _, exec_gated_idle rfl hidle, hentry, exec_eraseBlock_k0 rfl, ⟨rfl, rfl, rfl, rfl⟩,
    ⟨rfl, rfl, rfl, rfl, rfl, rfl, rfl, rfl⟩, rfl, rfl⟩

/-- Settles O52: four steps to C3, the wait, and the end at C4. -/
theorem chipEraseCompletes : Obligations.ChipEraseCompletes := by
  unfold Obligations.ChipEraseCompletes
  intro s okWren okCe busy clear rest hidle hdevice hlimit hbusy hclear hscript
  let s1 := s.startAt .g
  let s2 := s1.goto .c1
  let s3 := (s2.runCommand .wren).goto .c2
  let s4 := (s3.runCommand .ce).goto .c3
  have hstart : execTimes .opChipErase 4 s = .next s4 :=
    execTimes_cons (exec_gated_idle rfl hidle) <| execTimes_cons (exec_chipErase_g (s := s1) rfl hdevice) <|
    execTimes_cons (exec_chipErase_c1 (s := s2) rfl) <| execTimes_cons (exec_chipErase_c2 (s := s3) rfl) rfl
  obtain ⟨htrace3, hscript3⟩ := runCommand_scripted (s := s2) hscript .wren
  obtain ⟨htrace4, hscript4⟩ := runCommand_scripted (s := s3) hscript3 .ce
  have hevents : s4.trace = s.trace ++ [.runCmd s.config.cmdWren okWren, .runCmd s.config.cmdCe okCe] := by
    rw [show s4.trace = _ from htrace4, show s3.trace = _ from htrace3, List.append_assoc]
    rfl
  obtain ⟨u, hwait, hreads, hphase, -⟩ := busyWait_run (s := s4) (i := .opChipErase) rfl
    (by simp [s1, s2, s3, s4, hlimit]) hbusy hclear hscript4
  refine ⟨u, _, ?_, exec_chipErase_c4 hphase, ⟨rfl, rfl, rfl, rfl⟩, hreads.kept, hreads.transport, ?_⟩
  · rw [show busy.length + 5 = 4 + (busy.length + 1) by omega]
    exact (execTimes_add hstart _).trans hwait
  · rw [State.endOk_trace, hreads.trace, hevents]
    rfl

/-- Settles O55: three steps to K2, the wait, and the end at K3. -/
theorem eraseBlockSourceBracket : Obligations.EraseBlockSourceBracket := by
  unfold Obligations.EraseBlockSourceBracket
  intro s okWren busy clear rest hidle hdevice hmode hlimit hbusy hclear hscript
  let s1 := s.startAt .g
  let s2 := s1.goto .k1
  let s3 := (s2.runCommand .wren).goto .k2
  have hentry : exec .opEraseBlock s1 = .next s2 := by
    rw [exec_eraseBlock_g (s := s1) rfl hdevice, State.startAt_config, hmode, eraseBlockEntry]
  have hstart : execTimes .opEraseBlock 3 s = .next s3 :=
    execTimes_cons (exec_gated_idle rfl hidle) <| execTimes_cons hentry <|
    execTimes_cons (exec_eraseBlock_k1 (s := s2) rfl) rfl
  obtain ⟨htrace3, hscript3⟩ := runCommand_scripted (s := s2) hscript .wren
  obtain ⟨u, hwait, hreads, hphase, -⟩ := busyWait_run (s := s3) (i := .opEraseBlock) rfl (by simp [s1, s2, s3, hlimit])
    hbusy hclear hscript3
  refine ⟨u, _, ?_, exec_eraseBlock_k3 hphase, ⟨rfl, rfl, rfl, rfl⟩, hreads.kept, hreads.transport, ?_⟩
  · rw [show busy.length + 4 = 3 + (busy.length + 1) by omega]
    exact (execTimes_add hstart _).trans hwait
  · rw [State.endOk_trace, hreads.trace, show s3.trace = _ from htrace3]
    rfl

end Sys2Proof.Machine
end

section
/-! A whole successful INITIALIZE (41_initialize.md R140): where the run stands at each label, which label leads to which
with what events and answers, and the run put together. -/

namespace Sys2Proof.Machine

/-- INITIALIZE, run from `s`, stands at label `p` with row `k`, `d` found; it has recorded `events`, and `answers` are
what is left of the script. -/
structure Standing (s : State) (k : Nat) (d : Descriptor) (p : Phase) (events : List Event) (answers : List Answer)
    (t : State) : Prop where
  phase : t.seq.phase = p
  config : t.config = s.config
  ctrl : t.ctrl = s.ctrl
  inputs : t.inputs = s.inputs
  io : t.io = { s.io with busy := true }
  busUp : t.seq.busUp = true
  trace : t.trace = s.trace ++ events
  transport : t.transport = .scripted answers
  cand : t.seq.scratch.cand = some k
  device : t.seq.scratch.device = d

/-- From label `p` the run comes to `q`: the events grow from `ev` to `ev'`, the script shrinks from `ans` to `ans'`. -/
def Leads (s : State) (k : Nat) (d : Descriptor) (p : Phase) (ev : List Event) (ans : List Answer) (q : Phase)
    (ev' : List Event) (ans' : List Answer) : Prop :=
  ∀ t, Standing s k d p ev ans t → ∃ n u, execTimes .opInitialize n t = .next u ∧ Standing s k d q ev' ans' u

variable {s : State} {k : Nat} {d : Descriptor} {p q l : Phase} {ev ev' ev'' : List Event}
  {ans ans' ans'' rest : List Answer}

theorem Leads.trans (h : Leads s k d p ev ans q ev' ans') (h' : Leads s k d q ev' ans' l ev'' ans'') :
    Leads s k d p ev ans l ev'' ans'' := by
  intro t ht
  obtain ⟨n, u, hrun, hu⟩ := h t ht
  obtain ⟨m, v, hrun', hv⟩ := h' u hu
  exact ⟨n + m, v, (execTimes_add hrun m).trans hrun', hv⟩

/-- One step. -/
theorem leads_of_exec (h : ∀ t, Standing s k d p ev ans t →
    ∃ u, exec .opInitialize t = .next u ∧ Standing s k d q ev' ans' u) : Leads s k d p ev ans q ev' ans' := by
  intro t ht
  obtain ⟨u, hexec, hu⟩ := h t ht
  exact ⟨1, u, execTimes_succ hexec 0, hu⟩

/-- A step that only moves the sequencer. -/
theorem leads_goto (h : ∀ t, t.seq.phase = p → t.seq.scratch.device = d → exec .opInitialize t = .next (t.goto q)) :
    Leads s k d p ev ans q ev ans := by
  refine leads_of_exec fun t ht => ⟨t.goto q, h t ht.phase ht.device, ?_⟩
  exact { ht with phase := rfl }

/-- A step that sends a run command. -/
theorem leads_runCommand {c : BusCommand} {ok : Bool}
    (h : ∀ t, t.seq.phase = p → exec .opInitialize t = .next ((t.runCommand c).goto q)) :
    Leads s k d p ev (⟨ok, []⟩ :: rest) q (ev ++ [.runCmd (s.config.byteOf c) ok]) rest := by
  refine leads_of_exec fun t ht => ⟨_, h t ht.phase, ?_⟩
  obtain ⟨htrace, htransport⟩ := runCommand_scripted ht.transport c
  refine { ht with phase := rfl, trace := ?_, transport := htransport }
  rw [State.goto_trace, htrace, ht.trace, ht.config, List.append_assoc]

/-- R183: a busy-wait. -/
theorem leads_wait {cmd : BusCommand} {mask : Byte} {busy : List Byte} {clear : Byte}
    (hlimit : s.config.pollLimit = none) (hplace : pollAt s.config .opInitialize p = some (cmd, mask, q)) (hbusy : ∀ b ∈ busy, bitsSet b mask = true)
    (hclear : bitsSet clear mask = false) :
    Leads s k d p ev (statusAnswers (busy ++ [clear]) ++ rest) q
      (ev ++ statusEvents (s.config.byteOf cmd) (busy ++ [clear])) rest := by
  intro t ht
  obtain ⟨u, hrun, hreads, hphase, -⟩ := busyWait_run (s := t) (by rw [ht.config, ht.phase]; exact hplace)
    (by simp [ht.config, hlimit]) hbusy hclear ht.transport
  obtain ⟨hconfig, hctrl, hinputs, hbusUp, -⟩ := hreads.kept
  refine ⟨_, u, hrun, hphase, hconfig.trans ht.config, hctrl.trans ht.ctrl, hinputs.trans ht.inputs,
    hreads.io.trans ht.io, hbusUp.trans ht.busUp, ?_, hreads.transport, ?_, ?_⟩
  · rw [hreads.trace, ht.trace, ht.config, List.append_assoc]
  · rw [hreads.scratch]; exact ht.cand
  · rw [hreads.scratch]; exact ht.device

/-- R147: the delay. -/
theorem leads_delay : Leads s k d .i6c ev ans .i7 (ev ++ [.delay 30]) ans := by
  refine leads_of_exec fun t ht => ⟨_, exec_initialize_i6c ht.phase, ?_⟩
  refine { ht with phase := rfl, trace := ?_ }
  rw [State.goto_trace, State.delay_trace, ht.trace, List.append_assoc]

/-- R148: step 7r, by the bit of the byte read. -/
theorem leads_quadRead {b : Byte} :
    Leads s k d .i7r ev (⟨true, [b]⟩ :: rest) (if bitsSet b d.quadEnableBitMask then .i8 else .i7a)
      (ev ++ [.readCmd (if d.singleStatusByte then s.config.cmdRdsr1 else s.config.cmdRdsr2) 1 [b]]) rest := by
  refine leads_of_exec fun t ht => ⟨_, exec_initialize_i7r ht.phase, ?_⟩
  have hread : t.quadRead = _ := congrArg (fun u : State => u.goto (if bitsSet u.seq.scratch.status _ then _ else _))
    (readStatus_scripted ht.transport (quadStatusCommand t.seq.scratch.device))
  rw [hread, ht.device]
  refine { ht with phase := rfl, transport := rfl, trace := ?_ }
  rw [State.goto_trace, ht.trace, ht.config, byteOf_quadStatusCommand, List.append_assoc]

/-- R67: a status write uses up no answer of a script. -/
theorem writeStatus_scripted {t : State} (h : t.transport = .scripted ans) (c : BusCommand) (payload : List Byte) :
    (t.writeStatus c payload).transport = .scripted ans := by
  rw [State.writeStatus_transport, h]
  rfl

/-- R149, R150: steps 7b and 7c, the image and the one write. -/
theorem leads_quadWrite : Leads s k d .i7b ev ans .i8 (ev ++ [quadEnableEvent s.config d]) ans := by
  intro t ht
  refine ⟨2, t.buildImage.quadEnableWrite, execTimes_cons (exec_initialize_i7b ht.phase)
    (execTimes_cons (exec_initialize_i7c rfl) rfl), ?_⟩
  refine { ht with phase := rfl, trace := ?_, transport := writeStatus_scripted (t := t.buildImage) ht.transport _ _ }
  rw [quadEnableWrite_trace rfl rfl, show t.buildImage.trace = _ from ht.trace,
    show t.buildImage.config = _ from ht.config, show t.buildImage.seq.scratch.device = _ from ht.device, List.append_assoc]

/-- R151: step 8b, the protection clear. -/
theorem leads_protectionClear : Leads s k d .i8b ev ans .i9 (ev ++ [.writeCmd s.config.cmdWrsr1 [0x00]]) ans := by
  refine leads_of_exec fun t ht => ⟨_, exec_initialize_i8b ht.phase, ?_⟩
  refine { ht with phase := rfl, trace := ?_, transport := writeStatus_scripted ht.transport _ _ }
  rw [State.goto_trace, State.writeStatus_trace, ht.trace, ht.config, List.append_assoc]
  rfl

/-- R148 to R150: the whole of step 7, with what this part and this status byte make of it. -/
theorem leads_quad (r : InitRun) : Leads s k d .i7 ev
    ((if d.quadEnableBitMask = 0 then [] else [⟨true, [r.quadStatus]⟩])
      ++ ((if r.writesQuad d then [⟨r.okQuadWren, []⟩] else []) ++ rest)) .i8
    (ev ++ ((if d.quadEnableBitMask = 0 then []
        else [.readCmd (if d.singleStatusByte then s.config.cmdRdsr1 else s.config.cmdRdsr2) 1 [r.quadStatus]])
      ++ (if r.writesQuad d then [.runCmd s.config.cmdWren r.okQuadWren, quadEnableEvent s.config d] else []))) rest := by
  by_cases hmask : d.quadEnableBitMask = 0
  · have hskip : Leads s k d .i7 ev rest .i8 ev rest := leads_goto fun t hp hd => by
      rw [exec_initialize_i7 hp, quadTest_of_mask_zero (hd ▸ hmask)]
    simpa [InitRun.writesQuad, hmask] using hskip
  · have htest : ∀ ans, Leads s k d .i7 ev ans .i7r ev ans := fun ans => leads_goto fun t hp hd => by
      rw [exec_initialize_i7 hp, quadTest_of_mask_ne_zero (hd ▸ hmask)]
    have hread := fun ans => (htest _).trans (leads_quadRead (b := r.quadStatus) (rest := ans))
    cases hset : bitsSet r.quadStatus d.quadEnableBitMask with
    | true =>
      have hkeeps : r.writesQuad d = false := by simp [InitRun.writesQuad, hset]
      simpa only [if_neg hmask, hkeeps, hset, if_true, Bool.false_eq_true, if_false, List.append_nil,
        List.cons_append, List.nil_append] using hread rest
    | false =>
      have hwrites : r.writesQuad d = true := by simpa [InitRun.writesQuad, hset] using hmask
      have hwrite := ((hread _).trans (leads_runCommand (ok := r.okQuadWren) (rest := rest) fun t hp => by
        rw [hset] at hp
        exact exec_initialize_i7a hp)).trans leads_quadWrite
      simpa only [if_neg hmask, hwrites, if_true, List.append_assoc, List.cons_append, List.nil_append,
        Config.byteOf] using hwrite

/-- R151: the whole of step 8. -/
theorem leads_protection (r : InitRun) : Leads s k d .i8 ev
    ((if d.hasSectorProtection then [⟨r.okProtWren, []⟩] else []) ++ rest) .i9
    (ev ++ (if d.hasSectorProtection then [.runCmd s.config.cmdWren r.okProtWren, .writeCmd s.config.cmdWrsr1 [0x00]]
      else [])) rest := by
  cases hprotect : d.hasSectorProtection with
  | false =>
    have hskip : Leads s k d .i8 ev rest .i9 ev rest :=
      leads_goto fun t hp hd => exec_initialize_i8_unprotected hp (hd ▸ hprotect)
    simpa using hskip
  | true =>
    have hclear := ((leads_goto (s := s) (k := k) (ev := ev)
        fun t hp hd => exec_initialize_i8_protected hp (hd ▸ hprotect)).trans
      (leads_runCommand (ok := r.okProtWren) (rest := rest) fun t => exec_initialize_i8a)).trans leads_protectionClear
    simpa [Config.byteOf] using hclear

/-- R140: step 4 to step 10. -/
theorem leads_identified (r : InitRun) (hlimit : s.config.pollLimit = none) (hclears : r.Clears s.config) :
    Leads s k d .i4 [.begin, .readCmd s.config.cmdRdid 3 [r.ident.manufacturer, r.ident.memoryType, r.ident.capacity]]
      ((r.answers d).tail ++ rest) .i11 (r.events s.config d) rest := by
  obtain ⟨hbusy4, hclear4, hbusy5, hclear5, hbusy10, hclear10⟩ := hclears
  have hrun := (leads_wait (s := s) (k := k) (d := d) (p := .i4)
      (ev := [.begin, .readCmd s.config.cmdRdid 3 [r.ident.manufacturer, r.ident.memoryType, r.ident.capacity]])
      hlimit rfl hbusy4 hclear4).trans <|
    (leads_wait hlimit rfl hbusy5 hclear5).trans <|
    (leads_runCommand (ok := r.okRsten) fun t => exec_initialize_i6a).trans <|
    (leads_runCommand (ok := r.okRst) fun t => exec_initialize_i6b).trans <|
    leads_delay.trans <| (leads_quad r).trans <| (leads_protection r).trans <|
    (leads_runCommand (ok := r.okWrdi) fun t => exec_initialize_i9).trans <|
    leads_wait (rest := rest) hlimit rfl hbusy10 hclear10
  simpa [InitRun.answers, InitRun.events, Config.byteOf] using hrun

/-- R141 to R143: step 1 to step 3 bind the row that the identification names. -/
theorem standing_i4 {ident : Ident} (hidle : s.seq.phase = .idle) (hdevice : s.ctrl.activeDevice = none)
    (hlookup : lookup s.config.catalog ident = some (k, d))
    (hscript : s.transport = .scripted (⟨true, [ident.manufacturer, ident.memoryType, ident.capacity]⟩ :: ans)) :
    ∃ n t, execTimes .opInitialize n s = .next t ∧
      Standing s k d .i4 [.begin, .readCmd s.config.cmdRdid 3 [ident.manufacturer, ident.memoryType, ident.capacity]]
        ans t := by
  let s1 := s.startAt .g
  let s2 := s1.goto .i1
  let s3 := s2.beginBus.goto .i2
  let s4 := s3.readIdent.goto .i3
  have hscript3 : s3.transport = .scripted (⟨true, [ident.manufacturer, ident.memoryType, ident.capacity]⟩ :: ans) := by
    rw [State.goto_transport, State.beginBus_transport, show s2.transport = _ from hscript]
    rfl
  have hask : s3.ask (.readCommand s.config.cmdRdid 3) = ⟨true, [ident.manufacturer, ident.memoryType, ident.capacity]⟩ :=
    ask_scripted_exact hscript3 rfl
  have hfound : s4.identify = _ := identify_of_lookup_some (s := s4) (k := k) (d := d) (by
    rw [show s4.seq.scratch.ident = ident from congrArg (fun a : Answer => Ident.ofResponse a.bytes) hask]
    exact hlookup)
  refine ⟨5, s4.identify, execTimes_cons (exec_initialize_idle hidle) <|
    execTimes_cons (exec_initialize_g (s := s1) rfl hdevice) <| execTimes_cons (exec_initialize_i1 (s := s2) rfl) <|
    execTimes_cons (exec_initialize_i2 (s := s3) rfl) <| execTimes_cons (exec_initialize_i3 (s := s4) rfl) rfl, ?_⟩
  rw [hfound]
  refine ⟨rfl, ?config, ?ctrl, ?inputs, ?io, ?busUp, ?trace, ?transport, rfl, rfl⟩
  case config | ctrl | inputs | io | busUp => simp [s4, s3, s2, s1]
  · show s3.readIdent.trace = _
    rw [State.readIdent_trace, show s3.ask (.readCommand s3.config.cmdRdid 3) = _ from hask,
      show s3.trace = s.trace ++ [.begin] from rfl, List.append_assoc]
    rfl
  · show s3.transport.after _ _ = _
    rw [hscript3, after_scripted rfl]

/-- Settles O41: step 1 to step 3, step 4 to step 10, and the two steps that record the row and complete. -/
theorem initializeSucceeds : Obligations.InitializeSucceeds := by
  unfold Obligations.InitializeSucceeds
  intro s r k d rest hidle hdevice hlimit hlookup hclears hscript
  have hanswers : r.answers d ++ rest =
      ⟨true, [r.ident.manufacturer, r.ident.memoryType, r.ident.capacity]⟩ :: ((r.answers d).tail ++ rest) := by
    simp [InitRun.answers]
  obtain ⟨n, t, hrun, ht⟩ := standing_i4 hidle hdevice hlookup (hscript.trans (congrArg _ hanswers))
  obtain ⟨m, u, hrun', hu⟩ := leads_identified r hlimit hclears t ht
  let v := u.recordDevice.goto .i12
  have hlast : execTimes .opInitialize (n + (m + 1)) s = .next v :=
    (execTimes_add hrun _).trans ((execTimes_add hrun' _).trans (execTimes_succ (exec_initialize_i11 hu.phase) 0))
  refine ⟨n + (m + 1), v, v.endOk 1, hlast, exec_initialize_i12 rfl, ⟨rfl, rfl, rfl, rfl⟩, hu.trace, ?_, hu.busUp,
    hu.transport, hu.config, hu.inputs, ?_⟩
  · show ({ u.ctrl with activeDevice := _, totalSize := _, pageSize := _, pageCount := _ } : Controller) = _
    rw [hu.ctrl, hu.cand, hu.device]
    rfl
  · simp [v, State.recordDevice, hu.io]

end Sys2Proof.Machine
end

section
/-! The transport's answers (20_memory.md R63) and the reference chip's reaction to each bus command (60_exceptions.md
R240). -/

namespace Sys2Proof.Machine

/-- Settles O33: an answer is fitted to the length asked, and a script's entry of that length is handed over as it is. -/
theorem anyAnswerOfTheAskedLength : Obligations.AnyAnswerOfTheAskedLength := by
  unfold Obligations.AnyAnswerOfTheAskedLength
  exact ⟨fun s p => ask_bytes_length p s, fun s p a hlength => ⟨.scripted [a], ask_scripted_exact rfl hlength⟩,
    fun s p a rest hscript hlength => ask_scripted_exact hscript hlength⟩

section
variable {s : State} {chip : Chip} (hchip : s.transport = .reference chip) (hdistinct : s.config.DistinctCommands)

include hchip

/-- R66: what the chip answers to a read, where it has a row for the command and the length is the asked one. -/
theorem ask_readCommand_reference (hbus : s.seq.busUp = true) {op : Byte} {n : Nat} {bytes : List Byte}
    (hresponse : chip.readResponse s.config op = bytes) (hlength : bytes.length = n) :
    (s.ask (.readCommand op n)).bytes = bytes := by
  rw [ask_reference hchip hbus]
  show fit _ n (chip.readResponse s.config op) = bytes
  rw [hresponse, fit_of_length hlength]

/-- R68: the chip answers `true` to every run command. -/
theorem runCommand_ok_reference (hbus : s.seq.busUp = true) (k : BusCommand) :
    (s.runCommand k).seq.scratch.ok = true := by
  rw [State.runCommand_seq, ask_reference hchip hbus]
  rfl

include hdistinct

theorem readIdent_reference : s.readIdent.transport = .reference { chip with rstArmed := false } := by
  have hcommand := commandOf_byteOf hdistinct .rdid
  rw [State.readIdent_transport, hchip, after_reference]
  simp only [Chip.after, Chip.afterRead, show s.config.commandOf s.config.cmdRdid = _ from hcommand, Chip.disarm]

theorem readStatus1_reference :
    (s.readStatus .rdsr1).transport = .reference { chip with rstArmed := false, busyReads := chip.busyReads - 1 } := by
  rw [State.readStatus_transport, hchip, after_reference]
  simp only [Chip.after, Chip.afterRead, commandOf_byteOf hdistinct, Chip.disarm]

theorem readStatus2_reference : (s.readStatus .rdsr2).transport = .reference { chip with rstArmed := false } := by
  rw [State.readStatus_transport, hchip, after_reference]
  simp only [Chip.after, Chip.afterRead, commandOf_byteOf hdistinct, Chip.disarm]

/-- R240: the chip after each run command. -/
theorem runCommand_reference (k : BusCommand) : (s.runCommand k).transport =
    .reference (match k with
      | .wren => if chip.busyReads = 0 then { chip.disarm with wel := true } else chip.disarm
      | .wrdi => { chip.disarm with wel := false }
      | .rsten => { chip with rstArmed := true }
      | .rst => chip.resetIfArmed s.config
      | .ce => chip.disarm.eraseAll
      | _ => chip.disarm) := by
  rw [State.runCommand_transport, hchip, after_reference, Chip.after, Chip.afterRun, commandOf_byteOf hdistinct]
  cases k <;> rfl

end

/-- R66, R180, R181: a status read on every transport. -/
theorem readStatus_complete (s : State) (k : BusCommand) :
    ∃ b, (s.ask (.readCommand (s.config.byteOf k) 1)).bytes = [b] ∧
    (s.readStatus k).trace = s.trace ++ [.readCmd (s.config.byteOf k) 1 [b]] ∧ (s.readStatus k).seq.scratch.status = b ∧
    s.Kept (s.readStatus k) ∧ (s.readStatus k).io = s.io ∧ (s.readStatus k).seq.phase = s.seq.phase ∧
    s.ArrayKept (s.readStatus k) := by
  have hbyte := ask_readCommand_one (s.config.byteOf k) s
  refine ⟨_, hbyte, ?_, rfl, ⟨rfl, rfl, rfl, rfl, rfl, rfl, rfl, rfl⟩, rfl, rfl, arrayKept_of_readCommand rfl⟩
  rw [← hbyte]
  rfl

/-- R240: write-in-progress shows while busy reads remain. -/
theorem shownStatus1_eq (p : Config) (chip : Chip) :
    chip.shownStatus1 p = if chip.busyReads = 0 then chip.sr1 else chip.sr1 ||| p.wipMask := by
  by_cases h : chip.busyReads = 0
  · simp [Chip.shownStatus1, h]
  · simp [Chip.shownStatus1, h, Nat.pos_of_ne_zero h]

/-- Settles O29: on every transport each command is its read; on the reference chip the answer and the reaction are
those of its row. -/
theorem busReadsComplete : Obligations.BusReadsComplete := by
  unfold Obligations.BusReadsComplete
  refine ⟨fun s => ?rdid, fun s => ?rdsr1, fun s => ?rdsr2,
    fun s chip hchip hbus hdistinct => ⟨?rdidChip, ?rdsr1Chip, ?rdsr2Chip⟩⟩
  case rdid =>
    obtain ⟨m, y, c, hid⟩ := exists_ask_readCommand_three s.config.cmdRdid s
    refine ⟨s.readIdent, m, y, c, rfl, hid, ?_, congrArg Ident.ofResponse hid,
      ⟨rfl, rfl, rfl, rfl, rfl, rfl, rfl, rfl⟩, rfl, rfl, arrayKept_of_readCommand rfl⟩
    rw [← hid]
    rfl
  case rdsr1 =>
    obtain ⟨b, hrun⟩ := readStatus_complete s .rdsr1
    exact ⟨_, b, rfl, hrun⟩
  case rdsr2 =>
    obtain ⟨b, hrun⟩ := readStatus_complete s .rdsr2
    exact ⟨_, b, rfl, hrun⟩
  case rdidChip =>
    have hresponse : chip.readResponse s.config (s.config.byteOf .rdid) =
        [chip.jedec.manufacturer, chip.jedec.memoryType, chip.jedec.capacity] := by
      simp [Chip.readResponse, commandOf_byteOf hdistinct]
    exact ⟨_, rfl, congrArg Ident.ofResponse (ask_readCommand_reference hchip hbus hresponse rfl),
      readIdent_reference hchip hdistinct⟩
  case rdsr1Chip =>
    have hresponse : chip.readResponse s.config (s.config.byteOf .rdsr1) = [chip.shownStatus1 s.config] := by
      simp [Chip.readResponse, commandOf_byteOf hdistinct]
    rw [← shownStatus1_eq]
    exact ⟨_, rfl, congrArg (·.getD 0 0) (ask_readCommand_reference hchip hbus hresponse rfl),
      readStatus1_reference hchip hdistinct⟩
  case rdsr2Chip =>
    have hresponse : chip.readResponse s.config (s.config.byteOf .rdsr2) = [chip.sr2] := by
      simp [Chip.readResponse, commandOf_byteOf hdistinct]
    exact ⟨_, rfl, congrArg (·.getD 0 0) (ask_readCommand_reference hchip hbus hresponse rfl),
      readStatus2_reference hchip hdistinct⟩

/-- R67: a status write on every transport. -/
theorem writeStatus_complete (s : State) (k : BusCommand) (payload : List Byte) :
    (s.writeStatus k payload).trace = s.trace ++ [.writeCmd (s.config.byteOf k) payload] ∧
      s.Kept (s.writeStatus k payload) ∧ (s.writeStatus k payload).io = s.io ∧ (s.writeStatus k payload).seq = s.seq ∧
      s.ArrayKept (s.writeStatus k payload) :=
  ⟨rfl, ⟨rfl, rfl, rfl, rfl, rfl, rfl, rfl, rfl⟩, rfl, rfl, arrayKept_of_writeCommand rfl⟩

/-- R240: a status write is the chip's own reaction to its byte and payload. -/
theorem writeStatus_reference {s : State} {chip : Chip} (hchip : s.transport = .reference chip) (k : BusCommand)
    (payload : List Byte) : (s.writeStatus k payload).transport =
      .reference (chip.afterWrite s.config (s.config.byteOf k) payload) := by
  rw [State.writeStatus_transport, hchip, after_reference, Chip.after]

/-- R240: the chip takes a status write with the latch set and nothing in flight, and only then. -/
theorem Chip.accepts_iff (chip : Chip) : chip.accepts = true ↔ chip.wel = true ∧ chip.busyReads = 0 := by
  simp [Chip.accepts]

theorem Chip.accepts_eq_false_iff (chip : Chip) : chip.accepts = false ↔ chip.wel = false ∨ chip.busyReads ≠ 0 := by
  rw [← Bool.not_eq_true, Chip.accepts_iff, not_and_or, Bool.not_eq_true]

/-- R240: a write that is not accepted only disarms a reset. -/
theorem Chip.afterWrite_of_not_accepts {chip : Chip} (h : chip.accepts = false) (p : Config) (op : Byte)
    (payload : List Byte) : chip.afterWrite p op payload = { chip with rstArmed := false } := by
  simp [Chip.afterWrite, h, Chip.disarm]

/-- Settles O30: on every transport each command is its write; on the reference chip an accepted one takes the row of
its command and payload length. -/
theorem busWritesComplete : Obligations.BusWritesComplete := by
  unfold Obligations.BusWritesComplete
  refine ⟨fun s payload => ⟨⟨_, rfl, writeStatus_complete s .wrsr1 payload⟩,
      ⟨_, rfl, writeStatus_complete s .wrsr2 payload⟩⟩,
    fun s chip b0 b1 hchip hdistinct => ⟨fun hlatch hquiet => ?accepted, fun hbusy => ?ignored⟩⟩
  case accepted =>
    have haccepts := chip.accepts_iff.2 ⟨hlatch, hquiet⟩
    refine ⟨⟨_, rfl, (writeStatus_reference hchip ..).trans ?_⟩, ⟨_, rfl, (writeStatus_reference hchip ..).trans ?_⟩,
      ⟨_, rfl, (writeStatus_reference hchip ..).trans ?_⟩⟩ <;>
      simp [Chip.afterWrite, haccepts, commandOf_byteOf hdistinct, Chip.spendWrite, Chip.disarm]
  case ignored =>
    have hignores := chip.accepts_eq_false_iff.2 hbusy
    exact ⟨⟨_, rfl, (writeStatus_reference hchip ..).trans (congrArg _ (Chip.afterWrite_of_not_accepts hignores ..))⟩,
      ⟨_, rfl, (writeStatus_reference hchip ..).trans (congrArg _ (Chip.afterWrite_of_not_accepts hignores ..))⟩,
      ⟨_, rfl, (writeStatus_reference hchip ..).trans (congrArg _ (Chip.afterWrite_of_not_accepts hignores ..))⟩⟩

/-- R68: a run command on every transport; its effect on the array apart. -/
theorem runCommand_complete (s : State) (k : BusCommand) :
    (s.runCommand k).trace = s.trace ++ [.runCmd (s.config.byteOf k) (s.ask (.runCommand (s.config.byteOf k))).ok] ∧
      (s.runCommand k).seq.scratch.ok = (s.ask (.runCommand (s.config.byteOf k))).ok ∧ s.Kept (s.runCommand k) ∧
      (s.runCommand k).io = s.io ∧ (s.runCommand k).seq.phase = s.seq.phase :=
  ⟨rfl, rfl, ⟨rfl, rfl, rfl, rfl, rfl, rfl, rfl, rfl⟩, rfl, rfl⟩

/-- Settles O31: on every transport each command is its run; on the reference chip the reaction is that of its row. -/
theorem busRunsComplete : Obligations.BusRunsComplete := by
  unfold Obligations.BusRunsComplete
  have hrun : ∀ (s : State) (k : BusCommand), k ≠ .ce →
      ∃ t ok, Host.Outcome.next (s.runCommand k) = (.next t : Result) ∧
      ok = (s.ask (.runCommand (s.config.byteOf k))).ok ∧ t.trace = s.trace ++ [.runCmd (s.config.byteOf k) ok] ∧
      t.seq.scratch.ok = ok ∧ s.Kept t ∧ t.io = s.io ∧ t.seq.phase = s.seq.phase ∧ s.ArrayKept t := by
    intro s k hk
    obtain ⟨htrace, hok, hkept, hio, hphase⟩ := runCommand_complete s k
    exact ⟨_, _, rfl, rfl, htrace, hok, hkept, hio, hphase, arrayKept_of_runCommand hk rfl⟩
  refine ⟨fun s => ⟨hrun s .wren nofun, hrun s .wrdi nofun, hrun s .rsten nofun, hrun s .rst nofun,
    ⟨_, _, rfl, rfl, runCommand_complete s .ce⟩⟩, fun s chip hchip hbus hdistinct => ?_⟩
  have hok := runCommand_ok_reference hchip hbus
  have hreacts := runCommand_reference hchip hdistinct
  have hrst : (s.runCommand .rst).transport = .reference (chip.resetIfArmed s.config) := hreacts .rst
  have hce : (s.runCommand .ce).transport = .reference chip.disarm.eraseAll := hreacts .ce
  refine ⟨⟨_, rfl, hok _, (hreacts .wren).trans (congrArg _ ?wren)⟩, ⟨_, rfl, hok _, hreacts .wrdi⟩,
    ⟨_, rfl, hok _, hreacts .rsten⟩, ⟨_, rfl, hok _, fun harmed => ?armed, fun hunarmed => ?unarmed⟩,
    ⟨_, rfl, hok _, fun hlatch hquiet => ?accepted, fun hbusy => ?ignored⟩⟩
  case wren => by_cases h : chip.busyReads = 0 <;> simp [h, Chip.disarm]
  case armed => rw [hrst, Chip.resetIfArmed, if_pos harmed]
  case unarmed => rw [hrst, Chip.resetIfArmed, if_neg (by simp [hunarmed]), hchip]
  case accepted =>
    have haccepts : chip.disarm.accepts = true := chip.accepts_iff.2 ⟨hlatch, hquiet⟩
    rw [hce, Chip.eraseAll, if_pos haccepts]
    rfl
  case ignored =>
    have hignores : chip.disarm.accepts = false := chip.accepts_eq_false_iff.2 hbusy
    rw [hce, Chip.eraseAll, if_neg (by simp [hignores])]
    rfl

end Sys2Proof.Machine
end

section
/-! The array of the reference chip under the three steps that write it (60_exceptions.md R240). -/

namespace Sys2Proof.Machine

/-- Where the reference chip is attached the array's bytes are its memory's. -/
theorem arrayByte_reference {s : State} {chip : Chip} (h : s.transport = .reference chip) (addr : Nat) :
    s.arrayByte addr = if addr < chip.size then some (chip.mem.read addr) else none := by
  simp [State.arrayByte, h]

/-- The array's byte inside it. -/
theorem arrayByte_of_lt {s : State} {chip : Chip} (h : s.transport = .reference chip) {addr : Nat}
    (hlt : addr < chip.size) : s.arrayByte addr = some (chip.mem.read addr) := by
  rw [arrayByte_reference h, if_pos hlt]

/-- Settles O58: the boolean is whether the bytes lie inside the array, and so is whether it is programmed. -/
theorem writeBufferProgramsTheArray : Obligations.WriteBufferProgramsTheArray := by
  unfold Obligations.WriteBufferProgramsTheArray
  intro s chip hphase hbus hchip hlength
  have hok := memWrite_ok_reference hchip hbus
  have hafter : s.memWrite.transport = .reference (chip.afterProgram s.io.a0.toNat s.io.wbuf) := by
    rw [State.memWrite_transport, hchip, after_reference, Chip.after, writeData_of_length hlength]
  refine ⟨_, exec_writeBuffer_b1 hphase, fun hinside => ?inside, fun houtside => ?outside⟩
  case inside =>
    rw [← hlength] at hinside hok
    rw [Chip.afterProgram, if_pos hinside] at hafter
    refine ⟨hok.trans (decide_eq_true hinside), ⟨_, hafter⟩, fun i hi => ?_, fun addr haddr => ?_⟩
    · rw [arrayByte_of_lt (s := s.memWrite.goto .b2) hafter (by dsimp only; omega), read_program_inside _ _ _ _ hi]
    · rw [arrayByte_reference (s := s.memWrite.goto .b2) hafter, arrayByte_reference hchip,
        read_program_outside _ _ _ _ haddr]
  case outside =>
    have hnot : ¬ s.io.a0.toNat + s.io.a1.toNat ≤ chip.size := Nat.not_le.2 houtside
    refine ⟨hok.trans (decide_eq_false hnot), hafter.trans ?_⟩
    rw [Chip.afterProgram, if_neg (hlength ▸ hnot), hchip]

/-- R240: an address is in the sector of another when it lies less than a sector above that one's base. -/
theorem div_eq_div_iff_mem_sector {size : Nat} (hsize : 0 < size) (a b : Nat) :
    b / size = a / size ↔ a - a % size ≤ b ∧ b < a - a % size + size := by
  rw [Nat.div_eq_iff hsize, ← Nat.div_mul_self_eq_mod_sub_self]
  omega

/-- R240: the chip after a sector erase inside the array: the sector reads 0xFF up to the array's end, the rest of the
array as before. -/
theorem afterErase_inside {chip : Chip} {size a : Nat} (hsize : 0 < size) (hinside : a < chip.size) :
    ∃ m, chip.afterErase size a = { chip with mem := m, busyReads := chip.seReads } ∧
      (∀ addr, addr < chip.size → addr / size = a / size → m.read addr = 0xFF) ∧
      ∀ addr, addr / size ≠ a / size → m.read addr = chip.mem.read addr := by
  refine ⟨_, if_pos hinside, fun addr hlt hsector => ?_, fun addr hother => ?_⟩
  · rw [div_eq_div_iff_mem_sector hsize] at hsector
    obtain ⟨i, rfl⟩ := Nat.exists_eq_add_of_le hsector.1
    exact read_fillRange_inside _ _ _ _ _ (by omega)
  · rw [ne_eq, div_eq_div_iff_mem_sector hsize] at hother
    exact read_fillRange_outside _ _ _ _ _ (by omega)

/-- Settles O59: the boolean is whether the address lies inside the array, and so is whether its sector is erased. -/
theorem eraseSectorErasesTheArray : Obligations.EraseSectorErasesTheArray := by
  unfold Obligations.EraseSectorErasesTheArray
  intro s chip hphase hbus hchip hsize
  have hok := ask_eraseSector_reference hchip hbus s.seq.scratch.addr
  have hpos : 0 < s.config.sectorSize.toNat := Nat.pos_of_ne_zero fun h => hsize (BitVec.eq_of_toNat_eq h)
  let t := (s.eraseSector s.seq.scratch.addr).goto .e3
  have hafter : t.transport = .reference (chip.afterErase s.config.sectorSize.toNat s.seq.scratch.addr.toNat) := by
    rw [State.goto_transport, State.eraseSector_transport, hchip, after_reference, Chip.after]
  refine ⟨t, exec_eraseSector_e2 hphase, ?_⟩
  by_cases hinside : s.seq.scratch.addr.toNat < chip.size
  · obtain ⟨m, hm, hsame, hother⟩ := afterErase_inside hpos hinside
    rw [hm] at hafter
    refine ⟨fun addr _ hlt hsector => ?_, fun addr hsector => ?_,
      fun _ => ⟨hok.trans (decide_eq_true hinside), m, hafter⟩,
      fun houtside => absurd hinside (Nat.not_lt.2 houtside)⟩
    · rw [arrayByte_of_lt hafter hlt, hsame addr hlt hsector]
    · rw [arrayByte_reference hafter, arrayByte_reference hchip, hother addr hsector]
  · rw [Chip.afterErase, if_neg hinside, ← hchip] at hafter
    exact ⟨fun _ h => absurd h hinside, fun addr _ => arrayKept_of_transport hafter addr, fun h => absurd h hinside,
      fun _ => ⟨hok.trans (decide_eq_false hinside), hafter⟩⟩

/-- Settles O60: the chip erases with the latch set and nothing in flight, and else only disarms a reset. -/
theorem chipEraseErasesTheArray : Obligations.ChipEraseErasesTheArray := by
  unfold Obligations.ChipEraseErasesTheArray
  intro s chip hphase hbus hchip hdistinct
  let t := (s.runCommand .ce).goto .c3
  have hafter : t.transport = .reference chip.disarm.eraseAll := runCommand_reference hchip hdistinct .ce
  refine ⟨t, exec_chipErase_c2 hphase, runCommand_ok_reference hchip hbus .ce, fun hlatch hquiet => ?_, fun hbusy => ?_⟩
  · rw [Chip.eraseAll, if_pos (show chip.disarm.accepts = true from chip.accepts_iff.2 ⟨hlatch, hquiet⟩)] at hafter
    exact ⟨fun addr hlt => arrayByte_of_lt hafter hlt, _, hafter⟩
  · have hignores : chip.disarm.accepts = false := chip.accepts_eq_false_iff.2 hbusy
    rw [Chip.eraseAll, hignores, if_neg Bool.false_ne_true] at hafter
    refine ⟨fun addr => ?_, hafter⟩
    rw [arrayByte_reference hafter, arrayByte_reference hchip]
    rfl

end Sys2Proof.Machine
end
